-- ==== Sys2Proof/Config.lean ====
section
/-! DEFINITION. The parameters fixed at reset and constant for a run (00_scope.md R7). `IMAGE` and
`RESET_PC` are consumed by `load` (Machine/Boundary.lean) and are not kept. The spec leaves no value
free (70_reset_and_hazards.md R366), so there is no opaque constant here. -/

namespace Sys2Proof

/-- `UNDOC_ALIAS` (R7, 45_machine_control.md R295, decision D9): what the five bytes
`CB D9 DD ED FD` do. `nop` is the default and the only behaviour the document allows; `chip` gives them
the Intel part's aliases. -/
inductive UndocAlias where
  | nop
  | chip
  deriving DecidableEq, Repr

/-- The parameters a machine is built with. The machine's State carries them unchanged (log 9), so
that one step function serves every legal `MEMSIZE`. -/
structure Config where
  /-- `MEMSIZE`: the number of bytes of memory, 1 to 65536 (R7, R362). -/
  memSize : Nat
  /-- `UNDOC_ALIAS` (R7). -/
  undocAlias : UndocAlias
  deriving DecidableEq, Repr

/-- The legal values of `MEMSIZE` (R7, R362, decision D1): 1 to 65536. -/
abbrev Config.Legal (c : Config) : Prop := 1 ≤ c.memSize ∧ c.memSize ≤ 65536

end Sys2Proof
end

