-- ==== Sys2Proof/Word.lean ====
section
/-! DEFINITION. The two word types of the machine (00_scope.md R8): a register, a memory location and
an I/O datum are 8 bits; `SP`, `PC` and every memory address are 16 bits. All values are unsigned and
all arithmetic on them wraps (10_state.md R25, 41_arithmetic.md R174), which is what `BitVec` does. -/

namespace Sys2Proof

/-- An 8-bit register, memory byte, immediate `d8` or port datum (R8). -/
abbrev Byte := BitVec 8

/-- A 16-bit pair, `SP`, `PC`, address `a16` or immediate `d16` (R8). -/
abbrev Word := BitVec 16

end Sys2Proof
end

