-- ==== Sys2Proof/Syntax.lean ====
section
/-! DEFINITION. The instructions as data (30_encoding.md, opcode_table.json). One constructor per
instruction rule of the spec: the register, the memory (`M`) and the immediate form of one mnemonic are
separate constructors, because the spec gives each its own rule and its own faults. Register numbers
and condition codes are names here; their codes stand in Decode.lean. -/

namespace Sys2Proof

/-- The seven 8-bit registers (10_state.md R21). Code 110 is not a register but `M`, which has
constructors of its own below (R24). -/
inductive Reg8 where
  | b | c | d | e | h | l | a
  deriving DecidableEq, Repr

/-- The 16-bit operands of `LXI INX DCX DAD` (10_state.md R23): three pair views and `SP`. `PUSH`
and `POP` use the first three (their code 11 is `PSW`, a constructor of its own), `LDAX` and `STAX` the
first two; WellFormed.lean says so. -/
inductive Pair where
  | bc | de | hl | sp
  deriving DecidableEq, Repr

/-- The eight conditions of `Jcc`, `Ccc`, `Rcc` (43_control_flow.md R220). -/
inductive Cond where
  | nz | z | nc | c | po | pe | p | m
  deriving DecidableEq, Repr

/-- The five bytes `CB D9 DD ED FD` that the 8080 leaves undefined in quadrant 11
(45_machine_control.md R295). -/
inductive UndefHigh where
  | cb | d9 | dd | ed | fd
  deriving DecidableEq, Repr

/-- Every instruction of opcode_table.json. -/
inductive Instr where
  -- data transfer (40_data_transfer.md)
  /-- `MOV r1,r2` (R121). -/
  | movRR (dst src : Reg8)
  /-- `MOV r,M` (R122). -/
  | movRM (dst : Reg8)
  /-- `MOV M,r` (R123). -/
  | movMR (src : Reg8)
  /-- `MVI r,d8` (R124). -/
  | mviR (dst : Reg8) (d8 : Byte)
  /-- `MVI M,d8` (R125). -/
  | mviM (d8 : Byte)
  /-- `LXI rp,d16` (R126). -/
  | lxi (pr : Pair) (d16 : Word)
  /-- `LDA a16` (R127). -/
  | lda (a16 : Word)
  /-- `STA a16` (R128). -/
  | sta (a16 : Word)
  /-- `LHLD a16` (R129). -/
  | lhld (a16 : Word)
  /-- `SHLD a16` (R130). -/
  | shld (a16 : Word)
  /-- `LDAX rp`, `rp` in `BC`, `DE` (R131). -/
  | ldax (pr : Pair)
  /-- `STAX rp`, `rp` in `BC`, `DE` (R132). -/
  | stax (pr : Pair)
  /-- `XCHG` (R133). -/
  | xchg
  -- arithmetic (41_arithmetic.md)
  /-- `ADD r` (R154). -/
  | addR (src : Reg8)
  /-- `ADD M` (R155). -/
  | addM
  /-- `ADI d8` (R156). -/
  | adi (d8 : Byte)
  /-- `ADC r` (R157). -/
  | adcR (src : Reg8)
  /-- `ADC M` (R158). -/
  | adcM
  /-- `ACI d8` (R159). -/
  | aci (d8 : Byte)
  /-- `SUB r` (R160). -/
  | subR (src : Reg8)
  /-- `SUB M` (R161). -/
  | subM
  /-- `SUI d8` (R162). -/
  | sui (d8 : Byte)
  /-- `SBB r` (R163). -/
  | sbbR (src : Reg8)
  /-- `SBB M` (R164). -/
  | sbbM
  /-- `SBI d8` (R165). -/
  | sbi (d8 : Byte)
  /-- `INR r` (R166). -/
  | inrR (dst : Reg8)
  /-- `INR M` (R167). -/
  | inrM
  /-- `DCR r` (R168). -/
  | dcrR (dst : Reg8)
  /-- `DCR M` (R169). -/
  | dcrM
  /-- `INX rp` (R170). -/
  | inx (pr : Pair)
  /-- `DCX rp` (R171). -/
  | dcx (pr : Pair)
  /-- `DAD rp` (R172). -/
  | dad (pr : Pair)
  /-- `DAA` (R173). -/
  | daa
  -- logical, compare, rotate, carry (42_logical.md)
  /-- `ANA r` (R191). -/
  | anaR (src : Reg8)
  /-- `ANA M` (R192). -/
  | anaM
  /-- `ANI d8` (R193). -/
  | ani (d8 : Byte)
  /-- `XRA r` (R194). -/
  | xraR (src : Reg8)
  /-- `XRA M` (R195). -/
  | xraM
  /-- `XRI d8` (R196). -/
  | xri (d8 : Byte)
  /-- `ORA r` (R197). -/
  | oraR (src : Reg8)
  /-- `ORA M` (R198). -/
  | oraM
  /-- `ORI d8` (R199). -/
  | ori (d8 : Byte)
  /-- `CMP r` (R200). -/
  | cmpR (src : Reg8)
  /-- `CMP M` (R201). -/
  | cmpM
  /-- `CPI d8` (R202). -/
  | cpi (d8 : Byte)
  /-- `RLC` (R203). -/
  | rlc
  /-- `RRC` (R204). -/
  | rrc
  /-- `RAL` (R205). -/
  | ral
  /-- `RAR` (R206). -/
  | rar
  /-- `CMA` (R207). -/
  | cma
  /-- `CMC` (R208). -/
  | cmc
  /-- `STC` (R209). -/
  | stc
  -- control transfer (43_control_flow.md)
  /-- `JMP a16` (R222). -/
  | jmp (a16 : Word)
  /-- `JNZ a16`: not zero (R224). -/
  | jnz (a16 : Word)
  /-- `JZ a16`: zero (R225). -/
  | jz (a16 : Word)
  /-- `JNC a16`: no carry (R226). -/
  | jnc (a16 : Word)
  /-- `JC a16`: carry (R227). -/
  | jc (a16 : Word)
  /-- `JPO a16`: parity odd (R228). -/
  | jpo (a16 : Word)
  /-- `JPE a16`: parity even (R229). -/
  | jpe (a16 : Word)
  /-- `JP a16`: plus (R230). -/
  | jp (a16 : Word)
  /-- `JM a16`: minus (R231). -/
  | jm (a16 : Word)
  /-- `CALL a16` (R232). -/
  | call (a16 : Word)
  /-- `CNZ a16`: not zero (R234). -/
  | cnz (a16 : Word)
  /-- `CZ a16`: zero (R235). -/
  | cz (a16 : Word)
  /-- `CNC a16`: no carry (R236). -/
  | cnc (a16 : Word)
  /-- `CC a16`: carry (R237). -/
  | cc (a16 : Word)
  /-- `CPO a16`: parity odd (R238). -/
  | cpo (a16 : Word)
  /-- `CPE a16`: parity even (R239). -/
  | cpe (a16 : Word)
  /-- `CP a16`: plus (R240). -/
  | cp (a16 : Word)
  /-- `CM a16`: minus (R241). -/
  | cm (a16 : Word)
  /-- `RET` (R242). -/
  | ret
  /-- `RNZ`: not zero (R244). -/
  | rnz
  /-- `RZ`: zero (R245). -/
  | rz
  /-- `RNC`: no carry (R246). -/
  | rnc
  /-- `RC`: carry (R247). -/
  | rc
  /-- `RPO`: parity odd (R248). -/
  | rpo
  /-- `RPE`: parity even (R249). -/
  | rpe
  /-- `RP`: plus (R250). -/
  | rp
  /-- `RM`: minus (R251). -/
  | rm
  /-- `RST n`, `n` = 0 to 7 (R252). -/
  | rst (n : BitVec 3)
  /-- `PCHL` (R253). -/
  | pchl
  -- stack (44_stack.md)
  /-- `PUSH rp`, `rp` in `BC`, `DE`, `HL` (R272). -/
  | push (pr : Pair)
  /-- `PUSH PSW` (R273). -/
  | pushPsw
  /-- `POP rp`, `rp` in `BC`, `DE`, `HL` (R274). -/
  | pop (pr : Pair)
  /-- `POP PSW` (R275). -/
  | popPsw
  /-- `XTHL` (R276). -/
  | xthl
  /-- `SPHL` (R277). -/
  | sphl
  -- machine control (45_machine_control.md)
  /-- `NOP`, byte `00` (R290). -/
  | nop
  /-- `HLT` (R291). -/
  | hlt
  /-- `EI` (R292). -/
  | ei
  /-- `DI` (R293). -/
  | di
  /-- The seven undefined bytes `00xxx000`, `xxx` not 000; the table's mnemonic is `NOP` (R294). -/
  | undefLow (x : BitVec 3)
  /-- The five undefined bytes `CB D9 DD ED FD`; the table's mnemonic is `NOP` (R295). -/
  | undefHigh (u : UndefHigh)
  -- input/output (46_io.md)
  /-- `OUT d8` (R311). -/
  | out (port : Byte)
  /-- `IN d8` (R312). -/
  | inp (port : Byte)
  deriving DecidableEq, Repr

end Sys2Proof
end

