-- ==== Sys2Proof/WellFormed.lean ====
section
/-! DEFINITION. Which terms of `Instr` stand for an encoding the spec has. The types already rule out
register code 110 and `MOV M,M`; what is left is checked here. Every instruction the decoder gives is
well formed. -/

namespace Sys2Proof

/-- The pairs `LDAX` and `STAX` have (10_state.md R23): only `BC` and `DE` exist; the bytes of the
other two codes are `LHLD`, `LDA`, `SHLD`, `STA`. -/
def Pair.isIndirect : Pair → Bool
  | .bc | .de => true
  | .hl | .sp => false

/-- The pairs `PUSH` and `POP` have (10_state.md R23): code 11 is `PSW`, not `SP`. -/
def Pair.isStackable : Pair → Bool
  | .bc | .de | .hl => true
  | .sp => false

/-- A well-formed instruction: one that has an encoding. -/
def Instr.wf : Instr → Bool
  | .ldax pr | .stax pr => pr.isIndirect
  | .push pr | .pop pr => pr.isStackable
  | .undefLow x => x != 0
  | .movRR .. | .movRM .. | .movMR .. | .mviR .. | .mviM .. | .lxi .. => true
  | .lda .. | .sta .. | .lhld .. | .shld .. | .xchg => true
  | .addR .. | .addM | .adi .. | .adcR .. | .adcM | .aci .. => true
  | .subR .. | .subM | .sui .. | .sbbR .. | .sbbM | .sbi .. => true
  | .inrR .. | .inrM | .dcrR .. | .dcrM | .inx .. | .dcx .. | .dad .. | .daa => true
  | .anaR .. | .anaM | .ani .. | .xraR .. | .xraM | .xri .. => true
  | .oraR .. | .oraM | .ori .. | .cmpR .. | .cmpM | .cpi .. => true
  | .rlc | .rrc | .ral | .rar | .cma | .cmc | .stc => true
  | .jmp .. | .jnz .. | .jz .. | .jnc .. | .jc .. | .jpo .. | .jpe .. | .jp .. | .jm .. => true
  | .call .. | .cnz .. | .cz .. | .cnc .. | .cc .. | .cpo .. | .cpe .. | .cp .. | .cm .. => true
  | .ret | .rnz | .rz | .rnc | .rc | .rpo | .rpe | .rp | .rm => true
  | .rst .. | .pchl | .pushPsw | .popPsw | .xthl | .sphl => true
  | .nop | .hlt | .ei | .di | .undefHigh .. | .out .. | .inp .. => true

end Sys2Proof
end

