-- ==== Sys2Proof/Decode.lean ====
section
/-! DEFINITION. From bytes to instructions and back (30_encoding.md). `decodeOp` is the 256-entry opcode
map read field by field (R92, R97 to R100); `decode` reads one instruction off a list of bytes;
`encode` is written from the same code tables in the other direction. The opcode map itself is the
spec's general knowledge (93_implementation_defined.md G1). -/

namespace Sys2Proof

/-! ## Byte order (R67, R96) -/

/-- `(hi << 8) | lo` (00_scope.md R12). -/
def joinBytes (hi lo : Byte) : Word := hi ++ lo

/-- `v[15:8]`. -/
def hiByte (v : Word) : Byte := v.extractLsb' 8 8

/-- `v[7:0]`. -/
def loByte (v : Word) : Byte := v.extractLsb' 0 8

/-! ## Code tables (R93, R94, R95) -/

/-- Register code to register; `none` is code 110, the memory operand `M` (R93). -/
def Reg8.ofCode (x : BitVec 3) : Option Reg8 :=
  match x with
  | 0b000 => some .b
  | 0b001 => some .c
  | 0b010 => some .d
  | 0b011 => some .e
  | 0b100 => some .h
  | 0b101 => some .l
  | 0b110 => none
  | 0b111 => some .a

/-- Register to register code (R93). -/
def Reg8.code : Reg8 → BitVec 3
  | .b => 0b000
  | .c => 0b001
  | .d => 0b010
  | .e => 0b011
  | .h => 0b100
  | .l => 0b101
  | .a => 0b111

/-- The code of `M` in a register field (R93). -/
def codeM : BitVec 3 := 0b110

/-- Pair code to pair (R94). -/
def Pair.ofCode (x : BitVec 2) : Pair :=
  match x with
  | 0b00 => .bc
  | 0b01 => .de
  | 0b10 => .hl
  | 0b11 => .sp

/-- Pair to pair code (R94). -/
def Pair.code : Pair → BitVec 2
  | .bc => 0b00
  | .de => 0b01
  | .hl => 0b10
  | .sp => 0b11

/-- Condition to condition code (R95). -/
def Cond.code : Cond → BitVec 3
  | .nz => 0b000
  | .z => 0b001
  | .nc => 0b010
  | .c => 0b011
  | .po => 0b100
  | .pe => 0b101
  | .p => 0b110
  | .m => 0b111

/-- Condition code to condition (R95). -/
def Cond.ofCode (x : BitVec 3) : Cond :=
  match x with
  | 0b000 => .nz
  | 0b001 => .z
  | 0b010 => .nc
  | 0b011 => .c
  | 0b100 => .po
  | 0b101 => .pe
  | 0b110 => .p
  | 0b111 => .m

/-- The byte of each of the five undefined instructions of quadrant 11 (R100, R102). -/
def UndefHigh.byte : UndefHigh → Byte
  | .cb => 0xCB
  | .d9 => 0xD9
  | .dd => 0xDD
  | .ed => 0xED
  | .fd => 0xFD

/-! ## Lengths (R90, R91) -/

/-- The three formats (R91). -/
inductive Format where
  | f1 | f2 | f3
  deriving DecidableEq, Repr

/-- The length of each format in bytes (R91). -/
def Format.length : Format → Nat
  | .f1 => 1
  | .f2 => 2
  | .f3 => 3

/-- The format of each instruction (R91). -/
def Instr.format : Instr → Format
  | .lxi .. | .lda .. | .sta .. | .lhld .. | .shld .. => .f3
  | .jmp .. | .jnz .. | .jz .. | .jnc .. | .jc .. | .jpo .. | .jpe .. | .jp .. | .jm .. => .f3
  | .call .. | .cnz .. | .cz .. | .cnc .. | .cc .. | .cpo .. | .cpe .. | .cp .. | .cm .. => .f3
  | .mviR .. | .mviM .. => .f2
  | .adi .. | .aci .. | .sui .. | .sbi .. | .ani .. | .xri .. | .ori .. | .cpi .. => .f2
  | .out .. | .inp .. => .f2
  | .movRR .. | .movRM .. | .movMR .. | .ldax .. | .stax .. | .xchg => .f1
  | .addR .. | .addM | .adcR .. | .adcM | .subR .. | .subM | .sbbR .. | .sbbM => .f1
  | .inrR .. | .inrM | .dcrR .. | .dcrM | .inx .. | .dcx .. | .dad .. | .daa => .f1
  | .anaR .. | .anaM | .xraR .. | .xraM | .oraR .. | .oraM | .cmpR .. | .cmpM => .f1
  | .rlc | .rrc | .ral | .rar | .cma | .cmc | .stc => .f1
  | .ret | .rnz | .rz | .rnc | .rc | .rpo | .rpe | .rp | .rm | .rst .. | .pchl => .f1
  | .push .. | .pushPsw | .pop .. | .popPsw | .xthl | .sphl => .f1
  | .nop | .hlt | .ei | .di | .undefLow .. | .undefHigh .. => .f1

/-- `len`: 1, 2 or 3 (R90). -/
def Instr.length (i : Instr) : Nat := i.format.length

/-! ## The opcode map (R97 to R101)

`y` is the field of bits 5:3 and `z` that of bits 2:0 (R92); `y0` is bit 3 and `rp` bits 5:4 of the pair
forms. -/

/-- The quarter `00yyy010`: indirect and direct loads and stores (R97). -/
def decodeMem (y : BitVec 3) (a16 : Word) : Instr :=
  match y with
  | 0b000 => .stax .bc
  | 0b001 => .ldax .bc
  | 0b010 => .stax .de
  | 0b011 => .ldax .de
  | 0b100 => .shld a16
  | 0b101 => .lhld a16
  | 0b110 => .sta a16
  | 0b111 => .lda a16

/-- The quarter `00yyy111`: rotates, adjust, complement, carry (R97). -/
def decodeAcc (y : BitVec 3) : Instr :=
  match y with
  | 0b000 => .rlc
  | 0b001 => .rrc
  | 0b010 => .ral
  | 0b011 => .rar
  | 0b100 => .daa
  | 0b101 => .cma
  | 0b110 => .stc
  | 0b111 => .cmc

/-- Quadrant 00 (R97). -/
def decodeQ0 (y z : BitVec 3) (d8 : Byte) (d16 : Word) : Instr :=
  let rp := Pair.ofCode (y.extractLsb' 1 2)
  let y0 := y.getLsbD 0
  match z with
  | 0b000 => if y = 0 then .nop else .undefLow y
  | 0b001 => if y0 then .dad rp else .lxi rp d16
  | 0b010 => decodeMem y d16
  | 0b011 => if y0 then .dcx rp else .inx rp
  | 0b100 => match Reg8.ofCode y with
    | some dst => .inrR dst
    | none => .inrM
  | 0b101 => match Reg8.ofCode y with
    | some dst => .dcrR dst
    | none => .dcrM
  | 0b110 => match Reg8.ofCode y with
    | some dst => .mviR dst d8
    | none => .mviM d8
  | 0b111 => decodeAcc y

/-- Quadrant 01: `MOV`, and `HLT` in the `MOV M,M` slot (R98). -/
def decodeQ1 (y z : BitVec 3) : Instr :=
  match Reg8.ofCode y, Reg8.ofCode z with
  | some dst, some src => .movRR dst src
  | some dst, none => .movRM dst
  | none, some src => .movMR src
  | none, none => .hlt

/-- Quadrant 10: the accumulator operation `y` with a register or `M` (R99). -/
def decodeQ2 (y z : BitVec 3) : Instr :=
  match y, Reg8.ofCode z with
  | 0b000, some src => .addR src
  | 0b000, none => .addM
  | 0b001, some src => .adcR src
  | 0b001, none => .adcM
  | 0b010, some src => .subR src
  | 0b010, none => .subM
  | 0b011, some src => .sbbR src
  | 0b011, none => .sbbM
  | 0b100, some src => .anaR src
  | 0b100, none => .anaM
  | 0b101, some src => .xraR src
  | 0b101, none => .xraM
  | 0b110, some src => .oraR src
  | 0b110, none => .oraM
  | 0b111, some src => .cmpR src
  | 0b111, none => .cmpM

/-- The quarter `11yyy110`: the accumulator operation `y` with an immediate (R92, R100). -/
def decodeAluImm (y : BitVec 3) (d8 : Byte) : Instr :=
  match y with
  | 0b000 => .adi d8
  | 0b001 => .aci d8
  | 0b010 => .sui d8
  | 0b011 => .sbi d8
  | 0b100 => .ani d8
  | 0b101 => .xri d8
  | 0b110 => .ori d8
  | 0b111 => .cpi d8

/-- The quarter `11yyy000`: `Rcc` (R100). -/
def decodeRet (y : BitVec 3) : Instr :=
  match Cond.ofCode y with
  | .nz => .rnz
  | .z => .rz
  | .nc => .rnc
  | .c => .rc
  | .po => .rpo
  | .pe => .rpe
  | .p => .rp
  | .m => .rm

/-- The quarter `11yyy010`: `Jcc a16` (R100). -/
def decodeJump (y : BitVec 3) (a16 : Word) : Instr :=
  match Cond.ofCode y with
  | .nz => .jnz a16
  | .z => .jz a16
  | .nc => .jnc a16
  | .c => .jc a16
  | .po => .jpo a16
  | .pe => .jpe a16
  | .p => .jp a16
  | .m => .jm a16

/-- The quarter `11yyy100`: `Ccc a16` (R100). -/
def decodeCall (y : BitVec 3) (a16 : Word) : Instr :=
  match Cond.ofCode y with
  | .nz => .cnz a16
  | .z => .cz a16
  | .nc => .cnc a16
  | .c => .cc a16
  | .po => .cpo a16
  | .pe => .cpe a16
  | .p => .cp a16
  | .m => .cm a16

/-- The quarter `11yyy001`: `POP`, `RET`, `PCHL`, `SPHL` (R100). -/
def decodePop (y : BitVec 3) : Instr :=
  match y with
  | 0b000 => .pop .bc
  | 0b001 => .ret
  | 0b010 => .pop .de
  | 0b011 => .undefHigh .d9
  | 0b100 => .pop .hl
  | 0b101 => .pchl
  | 0b110 => .popPsw
  | 0b111 => .sphl

/-- The quarter `11yyy011`: `JMP`, ports, exchanges, `DI`, `EI` (R100). -/
def decodeMisc (y : BitVec 3) (d8 : Byte) (a16 : Word) : Instr :=
  match y with
  | 0b000 => .jmp a16
  | 0b001 => .undefHigh .cb
  | 0b010 => .out d8
  | 0b011 => .inp d8
  | 0b100 => .xthl
  | 0b101 => .xchg
  | 0b110 => .di
  | 0b111 => .ei

/-- The quarter `11yyy101`: `PUSH`, `CALL` (R100). -/
def decodePush (y : BitVec 3) (a16 : Word) : Instr :=
  match y with
  | 0b000 => .push .bc
  | 0b001 => .call a16
  | 0b010 => .push .de
  | 0b011 => .undefHigh .dd
  | 0b100 => .push .hl
  | 0b101 => .undefHigh .ed
  | 0b110 => .pushPsw
  | 0b111 => .undefHigh .fd

/-- Quadrant 11 (R100). -/
def decodeQ3 (y z : BitVec 3) (d8 : Byte) (d16 : Word) : Instr :=
  match z with
  | 0b000 => decodeRet y
  | 0b001 => decodePop y
  | 0b010 => decodeJump y d16
  | 0b011 => decodeMisc y d8 d16
  | 0b100 => decodeCall y d16
  | 0b101 => decodePush y d16
  | 0b110 => decodeAluImm y d8
  | 0b111 => .rst y

/-- The 256-entry opcode map (R101, R103): total, and a function of the opcode byte `b0` alone but
for the operand values, which are taken from `b1`, `b2` where the format has them (R96). -/
def decodeOp (b0 b1 b2 : Byte) : Instr :=
  let y := b0.extractLsb' 3 3
  let z := b0.extractLsb' 0 3
  match (b0.extractLsb' 6 2 : BitVec 2) with
  | 0b00 => decodeQ0 y z b1 (joinBytes b2 b1)
  | 0b01 => decodeQ1 y z
  | 0b10 => decodeQ2 y z
  | 0b11 => decodeQ3 y z b1 (joinBytes b2 b1)

/-- The format of the instruction an opcode byte begins (R90: it depends on that byte alone). -/
def opcodeFormat (b0 : Byte) : Format := (decodeOp b0 0 0).format

/-- `UNDOC_ALIAS` (45_machine_control.md R295): under `chip` the five bytes of quadrant 11 that the 8080
leaves undefined are read as the byte of `JMP`, `RET` or `CALL`; under `nop`, the default, every byte is
read as it stands (log 10). -/
def aliasOpcode (u : UndocAlias) (b0 : Byte) : Byte :=
  match u with
  | .nop => b0
  | .chip =>
    if b0 = 0xCB then 0xC3
    else if b0 = 0xD9 then 0xC9
    else if b0 = 0xDD ∨ b0 = 0xED ∨ b0 = 0xFD then 0xCD
    else b0

/-- Why a list of bytes holds no instruction. No opcode byte is refused (R102, R103): only a missing
byte is. -/
inductive DecodeError where
  /-- There is no opcode byte. -/
  | noOpcode
  /-- The list ends before the operand bytes the opcode `b0` calls for. -/
  | missingOperand (b0 : Byte)
  deriving DecidableEq, Repr

/-- One instruction off the front of a list of bytes, and the bytes after it (R90, R91, R103). -/
def decode : List Byte → Except DecodeError (Instr × List Byte)
  | [] => .error .noOpcode
  | b0 :: rest =>
    match opcodeFormat b0, rest with
    | .f1, rest => .ok (decodeOp b0 0 0, rest)
    | .f2, b1 :: rest => .ok (decodeOp b0 b1 0, rest)
    | .f2, [] => .error (.missingOperand b0)
    | .f3, b1 :: b2 :: rest => .ok (decodeOp b0 b1 b2, rest)
    | .f3, [_] => .error (.missingOperand b0)
    | .f3, [] => .error (.missingOperand b0)

/-! ## The encoder -/

/-- `qqyyyzzz` (R92). -/
def opcode (q : BitVec 2) (y z : BitVec 3) : Byte := (q ++ y ++ z : BitVec (2 + 3 + 3))

/-- `qqRPkzzz`: the pair forms, with bit 3 `k` part of the sub-opcode (R92). -/
def opcodeRp (q : BitVec 2) (rp : Pair) (k : BitVec 1) (z : BitVec 3) : Byte :=
  (q ++ rp.code ++ k ++ z : BitVec (2 + 2 + 1 + 3))

/-- The opcode byte of an instruction (R97 to R100). -/
def Instr.opcodeByte : Instr → Byte
  | .movRR dst src => opcode 0b01 dst.code src.code
  | .movRM dst => opcode 0b01 dst.code codeM
  | .movMR src => opcode 0b01 codeM src.code
  | .mviR dst _ => opcode 0b00 dst.code 0b110
  | .mviM _ => opcode 0b00 codeM 0b110
  | .lxi pr _ => opcodeRp 0b00 pr 0 0b001
  | .lda _ => 0x3A
  | .sta _ => 0x32
  | .lhld _ => 0x2A
  | .shld _ => 0x22
  | .ldax pr => opcodeRp 0b00 pr 1 0b010
  | .stax pr => opcodeRp 0b00 pr 0 0b010
  | .xchg => 0xEB
  | .addR src => opcode 0b10 0b000 src.code
  | .addM => opcode 0b10 0b000 codeM
  | .adi _ => opcode 0b11 0b000 0b110
  | .adcR src => opcode 0b10 0b001 src.code
  | .adcM => opcode 0b10 0b001 codeM
  | .aci _ => opcode 0b11 0b001 0b110
  | .subR src => opcode 0b10 0b010 src.code
  | .subM => opcode 0b10 0b010 codeM
  | .sui _ => opcode 0b11 0b010 0b110
  | .sbbR src => opcode 0b10 0b011 src.code
  | .sbbM => opcode 0b10 0b011 codeM
  | .sbi _ => opcode 0b11 0b011 0b110
  | .anaR src => opcode 0b10 0b100 src.code
  | .anaM => opcode 0b10 0b100 codeM
  | .ani _ => opcode 0b11 0b100 0b110
  | .xraR src => opcode 0b10 0b101 src.code
  | .xraM => opcode 0b10 0b101 codeM
  | .xri _ => opcode 0b11 0b101 0b110
  | .oraR src => opcode 0b10 0b110 src.code
  | .oraM => opcode 0b10 0b110 codeM
  | .ori _ => opcode 0b11 0b110 0b110
  | .cmpR src => opcode 0b10 0b111 src.code
  | .cmpM => opcode 0b10 0b111 codeM
  | .cpi _ => opcode 0b11 0b111 0b110
  | .inrR dst => opcode 0b00 dst.code 0b100
  | .inrM => opcode 0b00 codeM 0b100
  | .dcrR dst => opcode 0b00 dst.code 0b101
  | .dcrM => opcode 0b00 codeM 0b101
  | .inx pr => opcodeRp 0b00 pr 0 0b011
  | .dcx pr => opcodeRp 0b00 pr 1 0b011
  | .dad pr => opcodeRp 0b00 pr 1 0b001
  | .rlc => 0x07
  | .rrc => 0x0F
  | .ral => 0x17
  | .rar => 0x1F
  | .daa => 0x27
  | .cma => 0x2F
  | .stc => 0x37
  | .cmc => 0x3F
  | .jmp _ => 0xC3
  | .jnz _ => opcode 0b11 Cond.nz.code 0b010
  | .jz _ => opcode 0b11 Cond.z.code 0b010
  | .jnc _ => opcode 0b11 Cond.nc.code 0b010
  | .jc _ => opcode 0b11 Cond.c.code 0b010
  | .jpo _ => opcode 0b11 Cond.po.code 0b010
  | .jpe _ => opcode 0b11 Cond.pe.code 0b010
  | .jp _ => opcode 0b11 Cond.p.code 0b010
  | .jm _ => opcode 0b11 Cond.m.code 0b010
  | .call _ => 0xCD
  | .cnz _ => opcode 0b11 Cond.nz.code 0b100
  | .cz _ => opcode 0b11 Cond.z.code 0b100
  | .cnc _ => opcode 0b11 Cond.nc.code 0b100
  | .cc _ => opcode 0b11 Cond.c.code 0b100
  | .cpo _ => opcode 0b11 Cond.po.code 0b100
  | .cpe _ => opcode 0b11 Cond.pe.code 0b100
  | .cp _ => opcode 0b11 Cond.p.code 0b100
  | .cm _ => opcode 0b11 Cond.m.code 0b100
  | .ret => 0xC9
  | .rnz => opcode 0b11 Cond.nz.code 0b000
  | .rz => opcode 0b11 Cond.z.code 0b000
  | .rnc => opcode 0b11 Cond.nc.code 0b000
  | .rc => opcode 0b11 Cond.c.code 0b000
  | .rpo => opcode 0b11 Cond.po.code 0b000
  | .rpe => opcode 0b11 Cond.pe.code 0b000
  | .rp => opcode 0b11 Cond.p.code 0b000
  | .rm => opcode 0b11 Cond.m.code 0b000
  | .rst n => opcode 0b11 n 0b111
  | .pchl => 0xE9
  | .push pr => opcodeRp 0b11 pr 0 0b101
  | .pushPsw => 0xF5
  | .pop pr => opcodeRp 0b11 pr 0 0b001
  | .popPsw => 0xF1
  | .xthl => 0xE3
  | .sphl => 0xF9
  | .nop => 0x00
  | .hlt => 0x76
  | .ei => 0xFB
  | .di => 0xF3
  | .undefLow x => opcode 0b00 x 0b000
  | .undefHigh u => u.byte
  | .out _ => 0xD3
  | .inp _ => 0xDB

/-- `lo hi` (R91, R96). -/
def wordBytes (v : Word) : List Byte := [loByte v, hiByte v]

/-- The operand bytes of an instruction (R91, R96). -/
def Instr.operandBytes : Instr → List Byte
  | .mviR _ d8 | .mviM d8 => [d8]
  | .adi d8 | .aci d8 | .sui d8 | .sbi d8 | .ani d8 | .xri d8 | .ori d8 | .cpi d8 => [d8]
  | .out port | .inp port => [port]
  | .lxi _ d16 => wordBytes d16
  | .lda a | .sta a | .lhld a | .shld a => wordBytes a
  | .jmp a | .jnz a | .jz a | .jnc a | .jc a | .jpo a | .jpe a | .jp a | .jm a => wordBytes a
  | .call a | .cnz a | .cz a | .cnc a | .cc a | .cpo a | .cpe a | .cp a | .cm a => wordBytes a
  | .movRR .. | .movRM .. | .movMR .. | .ldax .. | .stax .. | .xchg => []
  | .addR .. | .addM | .adcR .. | .adcM | .subR .. | .subM | .sbbR .. | .sbbM => []
  | .inrR .. | .inrM | .dcrR .. | .dcrM | .inx .. | .dcx .. | .dad .. | .daa => []
  | .anaR .. | .anaM | .xraR .. | .xraM | .oraR .. | .oraM | .cmpR .. | .cmpM => []
  | .rlc | .rrc | .ral | .rar | .cma | .cmc | .stc => []
  | .ret | .rnz | .rz | .rnc | .rc | .rpo | .rpe | .rp | .rm | .rst .. | .pchl => []
  | .push .. | .pushPsw | .pop .. | .popPsw | .xthl | .sphl => []
  | .nop | .hlt | .ei | .di | .undefLow .. | .undefHigh .. => []

/-- The bytes of an instruction, in increasing address order (R91). -/
def encode (i : Instr) : List Byte := i.opcodeByte :: i.operandBytes

/-! ## The opcode table's numbering of bits -/

/-- Byte `k` of a table word: the first byte is bits 7..0, the next bits 15..8; bits at and above
`nbits` are 0. -/
def tableByte (nbits w k : Nat) : Byte := BitVec.ofNat 8 ((w % 2 ^ nbits) / 2 ^ (8 * k))

/-- The instruction the decoder reads from a table word, laid out as three bytes (the longest
instruction, R90) in increasing address order. -/
def decodeTableWord (nbits w : Nat) : Option Instr :=
  match decode [tableByte nbits w 0, tableByte nbits w 1, tableByte nbits w 2] with
  | .ok (i, _) => some i
  | .error _ => none

end Sys2Proof
end

