-- ==== Sys2Proof/Machine/State.lean ====
section
/-! DEFINITION. The machine's state as plain data (10_state.md R20, "the complete architectural
state"), the reasons a step can stop, and the state after reset. -/

namespace Sys2Proof.Machine

/-- The seven 8-bit general registers (R21). Pairs are views of these and have no storage of their
own (R22). -/
structure RegFile where
  a : Byte
  b : Byte
  c : Byte
  d : Byte
  e : Byte
  h : Byte
  l : Byte
  deriving DecidableEq, Repr

/-- The five independent flags (R29); true is 1. The packed byte is a view (R32). -/
structure Flags where
  /-- Zero. -/
  z : Bool
  /-- Sign. -/
  s : Bool
  /-- Parity: true means an even number of 1 bits. -/
  p : Bool
  /-- Carry; after a subtraction or comparison, the borrow. -/
  cy : Bool
  /-- Auxiliary carry, out of bit 3. -/
  ac : Bool
  deriving DecidableEq, Repr

/-- The I/O port controller's private state (R35, 46_io.md R310). -/
structure IoPorts where
  /-- The low byte of the 16-bit window. -/
  shift0 : Byte
  /-- The high byte of the 16-bit window. -/
  shift1 : Byte
  /-- The 3-bit shift offset. -/
  offset : BitVec 3
  deriving DecidableEq, Repr

/-- The kind of a memory access, as a fault reports it (60_exceptions.md R331). -/
inductive AccessKind where
  | fetch | read | write
  deriving DecidableEq, Repr

/-- The dispatcher's state machine (R34). The kind and the address of a fault are no part of it: they
go to the host with the outcome and are stored nowhere in the machine (60_exceptions.md R331). -/
inductive RunStatus where
  | running
  | halted
  | faulted
  deriving DecidableEq, Repr

/-- Memory as (address, byte) pairs in one canonical form: addresses strictly rising, no entry equal
to `Memory.unlisted` (Ops.lean says so as `Memory.wf`). -/
abbrev Memory := List Host.Cell

/-- What an address below `MEMSIZE` that is not listed holds: the byte 00. Every byte below `MEMSIZE`
is given by `IMAGE` (R36, R38), so this is how image bytes 00 are written down, not a guess about
memory nobody wrote (log 8). -/
def Memory.unlisted : Byte := 0x00

/-- The whole state (R20), with the two parameters that stay fixed for a run (`cfg`, log 9). -/
structure State where
  /-- `A B C D E H L` (R21). -/
  regs : RegFile
  /-- `SP` (R26). -/
  sp : Word
  /-- `PC`: between steps, the address of the next opcode byte (R27). -/
  pc : Word
  /-- `Z S P CY AC` (R29). -/
  flags : Flags
  /-- `INTE` (R33). -/
  inte : Bool
  /-- `status` (R34). -/
  status : RunStatus
  /-- `shift0`, `shift1`, `offset` (R35). -/
  io : IoPorts
  /-- `mem[0 .. MEMSIZE-1]` (R36). -/
  mem : Memory
  /-- `MEMSIZE` and `UNDOC_ALIAS` (00_scope.md R7). -/
  cfg : Config
  deriving DecidableEq, Repr

/-- The one exception of the machine (60_exceptions.md R330). -/
inductive Fault where
  /-- `Fault(OutOfRange, kind, addr)`: raised by every instruction fetch and every memory access at a
  16-bit address `addr` at or above `MEMSIZE` (R330, R332), and again by every step of a machine that
  is already `Faulted` (R296). `kind` and `addr` are in the outcome only (R331). The spec's own fault,
  so it is no departure. Safe: the run ends. -/
  | outOfRange (kind : AccessKind) (addr : Word)
  deriving DecidableEq, Repr

/-- Why the model itself gives a step no meaning. -/
inductive Refusal where
  /-- An instruction without a meaning yet, raised by its arm in Dispatch.lean only. Safe. No arm raises
  it now: every instruction has its meaning. -/
  | notModelled (mnemonic : String)
  /-- A step of a state whose status is `Faulted` although the instruction at its `PC` raises no fault,
  so that there is no "same `Fault`" to answer (R296). Raised by `step` (through `repeatFault`). No
  machine gets there: `State.Inv` rules it out, and every step and every fault entry keeps it (log 3).
  Safe. -/
  | faultedWithoutFault
  deriving DecidableEq, Repr

/-- The three outcomes of the meaning of an instruction and of a step (00_scope.md R9, log 1). -/
abbrev Result := Host.Outcome State Fault Refusal

/-- All seven registers 0: the spec's own choice D3, not the document's (R38, log 4). -/
def RegFile.zero : RegFile := { a := 0, b := 0, c := 0, d := 0, e := 0, h := 0, l := 0 }

/-- All five flags 0: the spec's own choice D3 (R38, log 4). -/
def Flags.zero : Flags := { z := false, s := false, p := false, cy := false, ac := false }

/-- The shift register and its offset 0: the spec's own choice D5 (R38, log 6). -/
def IoPorts.zero : IoPorts := { shift0 := 0, shift1 := 0, offset := 0 }

/-- The machine right after `load` (R38, 70_reset_and_hazards.md R360), for the parameters
`MEMSIZE = 65536`, `RESET_PC = 0`, `UNDOC_ALIAS = nop` and the image of 65536 zero bytes (log 7).
`Boundary.lean` has `load` for every choice of the parameters. -/
def State.reset : State where
  regs := RegFile.zero
  sp := 0
  pc := 0
  flags := Flags.zero
  inte := false
  status := .running
  io := IoPorts.zero
  mem := []
  cfg := { memSize := 65536, undocAlias := .nop }

end Sys2Proof.Machine
end

