-- ==== Sys2Proof/Machine/Flags.lean ====
section
/-! DEFINITION. The ALU's functions (41_arithmetic.md R150 to R153, R173; 42_logical.md R190), each a
pure operation on bytes that gives a result and the flags it writes, and the packed flag byte
(10_state.md R32). Operands become naturals, the exact sum is taken, and the result is narrowed. -/

namespace Sys2Proof.Machine

/-- A flag as the number 0 or 1. -/
def bit (x : Bool) : Nat := if x then 1 else 0

/-- The low nibble `v[3:0]` as a number. -/
def lowNibble (v : Byte) : Nat := v.toNat % 16

/-- The high nibble `v[7:4]` as a number. -/
def highNibble (v : Byte) : Nat := v.toNat / 16

/-- `Parity8` (R150): true when the number of 1 bits is even. -/
def parity8 (v : Byte) : Bool := (List.range 8).countP (fun i => v.getLsbD i) % 2 == 0

/-- `SetZSP` (R151): writes `Z`, `S`, `P` from the 8-bit result and leaves `CY` and `AC`. -/
def setZSP (res : Byte) (f : Flags) : Flags :=
  { f with z := res == 0, s := res.getLsbD 7, p := parity8 res }

/-- What an 8-bit ALU function gives back. -/
structure AluResult where
  res : Byte
  flags : Flags
  deriving DecidableEq, Repr

/-- All five flags from a result and the two carries. -/
def aluFlags (res : Byte) (cy ac : Bool) : Flags := setZSP res { Flags.zero with cy := cy, ac := ac }

/-- `Add8` (R152). -/
def add8 (a b : Byte) (cin : Bool) : AluResult :=
  let t := a.toNat + b.toNat + bit cin
  let res := BitVec.ofNat 8 t
  { res := res
    flags := aluFlags res (decide (t > 0xFF)) (decide (lowNibble a + lowNibble b + bit cin > 0xF)) }

/-- `Sub8` (R153): `CY` is the borrow, `AC` the carry out of bit 3 of `a + ~b + (1 - bin)` (decision
D10, log 11). -/
def sub8 (a b : Byte) (bin : Bool) : AluResult :=
  let res := BitVec.ofInt 8 ((a.toNat : Int) - b.toNat - bit bin)
  { res := res
    flags := aluFlags res (decide (b.toNat + bit bin > a.toNat))
      (decide (lowNibble a + lowNibble (~~~b) + (1 - bit bin) > 0xF)) }

/-- `Logic8` (R190): `CY` and `AC` cleared, `Z S P` from the result. -/
def logic8 (res : Byte) : AluResult := { res := res, flags := aluFlags res false false }

/-- The result and flags of `INR` (R166): all but `CY`, which is kept. -/
def inc8 (v : Byte) (f : Flags) : AluResult :=
  let res := BitVec.ofNat 8 (v.toNat + 1)
  { res := res, flags := setZSP res { f with ac := lowNibble v == 0xF } }

/-- The result and flags of `DCR` (R168): all but `CY`, which is kept. -/
def dec8 (v : Byte) (f : Flags) : AluResult :=
  let res := BitVec.ofInt 8 ((v.toNat : Int) - 1)
  { res := res, flags := setZSP res { f with ac := lowNibble v != 0x0 } }

/-- Stage 1 of `DAA` (R173): the low nibble, with the carry out of bit 7 kept and `AC` recomputed. -/
def daaLow (a : Byte) (cy ac : Bool) : Byte × Bool × Bool :=
  if lowNibble a > 9 ∨ ac then
    (BitVec.ofNat 8 (a.toNat + 6), cy || decide (a.toNat + 6 > 0xFF), decide (lowNibble a + 6 > 0xF))
  else (a, cy, ac)

/-- Stage 2 of `DAA` (R173): the high nibble, using the updated byte. -/
def daaHigh (a : Byte) (cy : Bool) : Byte × Bool :=
  if highNibble a > 9 ∨ cy then (BitVec.ofNat 8 (a.toNat + 0x60), true) else (a, cy)

/-- `DAA` (R173): the two stages in this order; `CY` is never cleared (decision D11, log 12). -/
def daa8 (a : Byte) (f : Flags) : AluResult :=
  let low := daaLow a f.cy f.ac
  let high := daaHigh low.1 low.2.1
  { res := high.1, flags := aluFlags high.1 high.2 low.2.2 }

/-- `DAD`'s sum (R172): the 16-bit result and the carry out of bit 15. -/
def add16 (a b : Word) : Word × Bool :=
  let t := a.toNat + b.toNat
  (BitVec.ofNat 16 t, decide (t > 0xFFFF))

/-- `RLC` (R203): the rotated byte and the new `CY`. -/
def rlc8 (a : Byte) : Byte × Bool :=
  let b := a.getLsbD 7
  ((a <<< 1) ||| BitVec.ofNat 8 (bit b), b)

/-- `RRC` (R204). -/
def rrc8 (a : Byte) : Byte × Bool :=
  let b := a.getLsbD 0
  ((a >>> 1) ||| (BitVec.ofNat 8 (bit b) <<< 7), b)

/-- `RAL` (R205): the old `CY` enters bit 0. -/
def ral8 (a : Byte) (cy : Bool) : Byte × Bool :=
  ((a <<< 1) ||| BitVec.ofNat 8 (bit cy), a.getLsbD 7)

/-- `RAR` (R206): the old `CY` enters bit 7. -/
def rar8 (a : Byte) (cy : Bool) : Byte × Bool :=
  ((a >>> 1) ||| (BitVec.ofNat 8 (bit cy) <<< 7), a.getLsbD 0)

/-- `PSWbyte()` (R32): `S Z 0 AC 0 P 1 CY` from bit 7 to bit 0. -/
def pswByte (f : Flags) : Byte :=
  BitVec.ofNat 8
    (bit f.s * 0x80 + bit f.z * 0x40 + bit f.ac * 0x10 + bit f.p * 0x04 + 0x02 + bit f.cy)

/-- The flags `POP PSW` reads from a byte (R32, R275): bits 1, 3 and 5 are discarded (decision D18). -/
def unpackPsw (v : Byte) : Flags :=
  { z := v.getLsbD 6, s := v.getLsbD 7, p := v.getLsbD 2, cy := v.getLsbD 0, ac := v.getLsbD 4 }

end Sys2Proof.Machine
end

