-- ==== Sys2Proof/Machine/Operands.lean ====
section
/-! DEFINITION. Reading and writing the operand forms: registers, pair views, `SP`, the port
controller, and the condition table (10_state.md R21 to R26, 43_control_flow.md R220). The memory
operand `M` is an access and stands in Ops.lean. -/

namespace Sys2Proof.Machine

/-- `r[c]` in the register file (R21). -/
def RegFile.get (r : RegFile) : Reg8 → Byte
  | .a => r.a
  | .b => r.b
  | .c => r.c
  | .d => r.d
  | .e => r.e
  | .h => r.h
  | .l => r.l

/-- `r[c] <- v` in the register file (R21). -/
def RegFile.set (r : RegFile) (x : Reg8) (v : Byte) : RegFile :=
  match x with
  | .a => { r with a := v }
  | .b => { r with b := v }
  | .c => { r with c := v }
  | .d => { r with d := v }
  | .e => { r with e := v }
  | .h => { r with h := v }
  | .l => { r with l := v }

/-- `r[c]` (R21). -/
def State.getReg (s : State) (x : Reg8) : Byte := s.regs.get x

/-- `r[c] <- v` (R21). -/
def State.setReg (s : State) (x : Reg8) (v : Byte) : State := { s with regs := s.regs.set x v }

/-- The view `BC` (R22). -/
def State.bc (s : State) : Word := joinBytes s.regs.b s.regs.c

/-- The view `DE` (R22). -/
def State.de (s : State) : Word := joinBytes s.regs.d s.regs.e

/-- The view `HL` (R22), also the address of `M` (R24). -/
def State.hl (s : State) : Word := joinBytes s.regs.h s.regs.l

/-- `rp[p]` (R22, R23). -/
def State.getPair (s : State) : Pair → Word
  | .bc => s.bc
  | .de => s.de
  | .hl => s.hl
  | .sp => s.sp

/-- `rp[p] <- v` (R22, R23): `v[15:8]` to the first-named register, `v[7:0]` to the second. -/
def State.setPair (s : State) (x : Pair) (v : Word) : State :=
  match x with
  | .bc => { s with regs := { s.regs with b := hiByte v, c := loByte v } }
  | .de => { s with regs := { s.regs with d := hiByte v, e := loByte v } }
  | .hl => { s with regs := { s.regs with h := hiByte v, l := loByte v } }
  | .sp => { s with sp := v }

/-- The two 8-bit registers a pair is a view of (R22); `SP` is a register of its own. -/
def pairHalves : Pair → List Reg8
  | .bc => [.b, .c]
  | .de => [.d, .e]
  | .hl => [.h, .l]
  | .sp => []

/-- `SP <- v` (R26). -/
def State.setSp (s : State) (v : Word) : State := { s with sp := v }

/-- `pc <- v` (R28). -/
def State.setPc (s : State) (v : Word) : State := { s with pc := v }

/-- The flags written whole (R29). -/
def State.setFlags (s : State) (f : Flags) : State := { s with flags := f }

/-- `CY <- v`, the other four flags kept (R30). -/
def State.setCy (s : State) (v : Bool) : State := { s with flags := { s.flags with cy := v } }

/-- `INTE <- v` (R33). -/
def State.setInte (s : State) (v : Bool) : State := { s with inte := v }

/-- `status <- v` (R34). -/
def State.setStatus (s : State) (v : RunStatus) : State := { s with status := v }

/-- The port controller's state written whole (R35). -/
def State.setIo (s : State) (v : IoPorts) : State := { s with io := v }

/-- `Cond(ccc)` (43_control_flow.md R220): reads one flag. -/
def condHolds (f : Flags) : Cond → Bool
  | .nz => !f.z
  | .z => f.z
  | .nc => !f.cy
  | .c => f.cy
  | .po => !f.p
  | .pe => f.p
  | .p => !f.s
  | .m => f.s

/-- The five flags by name, for the host's accessors (60_exceptions.md R346). -/
inductive FlagName where
  | z | s | p | cy | ac
  deriving DecidableEq, Repr

/-- One flag by name (R29). -/
def Flags.get (f : Flags) : FlagName → Bool
  | .z => f.z
  | .s => f.s
  | .p => f.p
  | .cy => f.cy
  | .ac => f.ac

/-- The 16-bit window `(shift1 << 8) | shift0` (46_io.md R310). -/
def IoPorts.window (io : IoPorts) : Word := joinBytes io.shift1 io.shift0

/-- `PortWrite(port, v)` (46_io.md R313, R314, R316): port 2 sets the offset from the low three bits
(decision D15), port 4 shifts the window, every other port does nothing. -/
def IoPorts.portWrite (io : IoPorts) (port v : Byte) : IoPorts :=
  if port = 2 then { io with offset := v.extractLsb' 0 3 }
  else if port = 4 then { io with shift0 := io.shift1, shift1 := v }
  else io

/-- `PortRead(port)` (46_io.md R315, R316): port 3 gives the 8-bit slice of the window that the offset
selects, every other port gives 0. -/
def IoPorts.portRead (io : IoPorts) (port : Byte) : Byte :=
  if port = 3 then (io.window >>> (8 - io.offset.toNat)).setWidth 8 else 0x00

end Sys2Proof.Machine
end

