-- ==== Sys2Proof/Machine/Ops.lean ====
section
/-! DEFINITION. The shared operations of the meanings: memory with its range check (20_memory.md R62
to R66), the fault (60_exceptions.md R330 to R336), the stack primitives (44_stack.md R270, R271) and the
advance of `PC` (10_state.md R28). An operation that accesses memory takes the rest of the instruction
as a continuation, so that a fault of any access drops the whole effect: no register, flag or byte is
written by an instruction that faults (R66). -/

namespace Sys2Proof.Machine

/-! ## Memory as a list -/

/-- The canonical form from address `lo` on: addresses strictly rising, no entry equal to what an
unlisted address reads as. -/
def Memory.wfFrom (lo : Nat) : Memory → Bool
  | [] => true
  | (a, v) :: m => decide (lo ≤ a) && (v != Memory.unlisted) && Memory.wfFrom (a + 1) m

/-- The canonical form. -/
def Memory.wf (m : Memory) : Bool := Memory.wfFrom 0 m

/-- Every listed address lies below `n`. -/
def Memory.below (n : Nat) (m : Memory) : Bool := m.all fun cell => decide (cell.1 < n)

/-- The byte at an address. -/
def Memory.read : Memory → Nat → Byte
  | [], _ => Memory.unlisted
  | (b, w) :: m, a => if a = b then w else Memory.read m a

/-- One byte written; the canonical form is kept (Laws/Memory.lean). -/
def Memory.write : Memory → Nat → Byte → Memory
  | [], a, v => if v = Memory.unlisted then [] else [(a, v)]
  | (b, w) :: m, a, v =>
    if a < b then (if v = Memory.unlisted then (b, w) :: m else (a, v) :: (b, w) :: m)
    else if a = b then (if v = Memory.unlisted then m else (a, v) :: m)
    else (b, w) :: Memory.write m a v

/-- `mem[addr]`, without the range check. -/
def State.peek (s : State) (addr : Word) : Byte := s.mem.read addr.toNat

/-- `mem[addr] <- v`, without the range check. -/
def State.poke (s : State) (addr : Word) (v : Byte) : State :=
  { s with mem := s.mem.write addr.toNat v }

/-! ## The fault -/

/-- An address that memory has: below `MEMSIZE`, compared after the address has wrapped to 16 bits
(R62, R77). -/
def State.inRange (s : State) (addr : Word) : Bool := decide (addr.toNat < s.cfg.memSize)

/-- `raise Fault(OutOfRange, kind, addr)` (R330): ends the step and reports to the host. Nothing is
saved and nothing vectored to (R335). -/
def raiseFault (kind : AccessKind) (addr : Word) : Result := .fault (.outOfRange kind addr)

/-- Fault entry (R335): `status` becomes `Faulted`, everything else keeps the value it had before the
step. `hostStep` (Boundary.lean) puts the machine here when a step raises the fault. -/
def State.enterFault (s : State) : State := s.setStatus .faulted

/-- The outcome of a step in `Faulted`, from what the step that faulted did: the same fault again, and
no successor (45_machine_control.md R296). -/
def repeatFault : Result → Result
  | .fault f => .fault f
  | .next _ | .refused _ => .refused .faultedWithoutFault

/-- The first thing a step looks at (00_scope.md R11 step 1): a `Running` machine executes, a `Halted`
one answers itself, a `Faulted` one answers the same fault again (R296). The machine does not remember
that fault (60_exceptions.md R331) and need not: fault entry changed `status` alone (R335), so the fault
is a function of the state as it stands (log 3). This is all there is of a fault return: `Faulted` is
absorbing, and only `load` leaves it (R336). -/
def State.dispatch (s : State) (execute : State → Result) : Result :=
  match s.status with
  | .running => execute s
  | .halted => .next s
  | .faulted => repeatFault (execute (s.setStatus .running))

/-- The range check of one access (R62 to R64), then the rest. -/
def State.check (s : State) (kind : AccessKind) (addr : Word) (rest : Result) : Result :=
  if s.inRange addr then rest else raiseFault kind addr

/-! ## Accesses -/

/-- `Fetch(addr)` (R64). -/
def State.fetchByte (s : State) (addr : Word) (k : Byte → Result) : Result :=
  s.check .fetch addr (k (s.peek addr))

/-- `MemRead(addr, 1)` (R62). -/
def State.load8 (s : State) (addr : Word) (k : Byte → Result) : Result :=
  s.check .read addr (k (s.peek addr))

/-- `MemRead(addr, 2)` (R65): low byte at `addr`, high byte at `addr + 1`, which wraps. -/
def State.load16 (s : State) (addr : Word) (k : Word → Result) : Result :=
  s.check .read addr (s.check .read (addr + 1) (k (joinBytes (s.peek (addr + 1)) (s.peek addr))))

/-- `MemWrite(addr, 1, v)` (R63); the rest goes on from the written state. -/
def State.store8 (s : State) (addr : Word) (v : Byte) (k : State → Result) : Result :=
  s.check .write addr (k (s.poke addr v))

/-- `MemWrite(addr, 2, v)` (R65): both addresses are checked before either byte is written (R66). -/
def State.store16 (s : State) (addr : Word) (v : Word) (k : State → Result) : Result :=
  s.check .write addr (s.check .write (addr + 1)
    (k ((s.poke addr (loByte v)).poke (addr + 1) (hiByte v))))

/-- `Push16(v)` (R270): the high byte at `SP - 1`, the low byte at `SP - 2`, then `SP <- SP - 2`; both
addresses are checked first, `SP - 1` before `SP - 2`. -/
def State.push16 (s : State) (v : Word) (k : State → Result) : Result :=
  s.check .write (s.sp - 1) (s.check .write (s.sp - 2)
    (k (((s.poke (s.sp - 1) (hiByte v)).poke (s.sp - 2) (loByte v)).setSp (s.sp - 2))))

/-- `Pop16()` (R271): the low byte at `SP`, the high byte at `SP + 1`, then `SP <- SP + 2`. -/
def State.pop16 (s : State) (k : Word → State → Result) : Result :=
  s.load16 s.sp (fun v => k v (s.setSp (s.sp + 2)))

/-! ## The end of an instruction -/

/-- `next = (PC + len) mod 65536` (R11, R28). -/
def State.nextPc (s : State) (len : Nat) : Word := s.pc + BitVec.ofNat 16 len

/-- `pc <- next` (R28). -/
def State.advance (s : State) (len : Nat) : State := s.setPc (s.nextPc len)

/-- The end of an instruction of length `len` that is no taken transfer (R11, R28). -/
def State.finish (s : State) (len : Nat) : Result := .next (s.advance len)

/-- `A` and the flags from an ALU function. -/
def State.putAcc (s : State) (r : AluResult) : State := (s.setReg .a r.res).setFlags r.flags

/-- `A` and `CY` from a rotate (42_logical.md R203 to R206). -/
def State.putRotate (s : State) (r : Byte × Bool) : State := (s.setReg .a r.1).setCy r.2

/-- A jump to `target` if `taken`, else past the three bytes (43_control_flow.md R221 to R223). -/
def State.jumpIf (s : State) (taken : Bool) (target : Word) : Result :=
  if taken then .next (s.setPc target) else s.finish 3

/-- A call to `target`, whose return address is the byte after an instruction of `len` bytes
(43_control_flow.md R221, R232, R252). -/
def State.callTo (s : State) (len : Nat) (target : Word) : Result :=
  s.push16 (s.nextPc len) (fun t => .next (t.setPc target))

/-- A call if `taken`, else past the three bytes, with stack and `SP` untouched (R233). -/
def State.callIf (s : State) (taken : Bool) (target : Word) : Result :=
  if taken then s.callTo 3 target else s.finish 3

/-- `pc <- Pop16()` (R242). -/
def State.popPc (s : State) : Result := s.pop16 (fun v t => .next (t.setPc v))

/-- A return if `taken`, else past the one byte, with the stack not read (R243). -/
def State.returnIf (s : State) (taken : Bool) : Result :=
  if taken then s.popPc else s.finish 1

end Sys2Proof.Machine
end

