-- ==== Sys2Proof/Machine/Arithmetic.lean ====
section
/-! DEFINITION. The arithmetic instructions (41_arithmetic.md R154 to R175). -/

namespace Sys2Proof.Machine

/-- `ADD r` (R154). -/
def execAddR (src : Reg8) (s : State) : Result :=
  (s.putAcc (add8 (s.getReg .a) (s.getReg src) false)).finish 1

/-- `ADD M` (R155). -/
def execAddM (s : State) : Result :=
  s.load8 s.hl fun v => (s.putAcc (add8 (s.getReg .a) v false)).finish 1

/-- `ADI d8` (R156). -/
def execAdi (d8 : Byte) (s : State) : Result :=
  (s.putAcc (add8 (s.getReg .a) d8 false)).finish 2

/-- `ADC r` (R157). -/
def execAdcR (src : Reg8) (s : State) : Result :=
  (s.putAcc (add8 (s.getReg .a) (s.getReg src) s.flags.cy)).finish 1

/-- `ADC M` (R158). -/
def execAdcM (s : State) : Result :=
  s.load8 s.hl fun v => (s.putAcc (add8 (s.getReg .a) v s.flags.cy)).finish 1

/-- `ACI d8` (R159). -/
def execAci (d8 : Byte) (s : State) : Result :=
  (s.putAcc (add8 (s.getReg .a) d8 s.flags.cy)).finish 2

/-- `SUB r` (R160). -/
def execSubR (src : Reg8) (s : State) : Result :=
  (s.putAcc (sub8 (s.getReg .a) (s.getReg src) false)).finish 1

/-- `SUB M` (R161). -/
def execSubM (s : State) : Result :=
  s.load8 s.hl fun v => (s.putAcc (sub8 (s.getReg .a) v false)).finish 1

/-- `SUI d8` (R162). -/
def execSui (d8 : Byte) (s : State) : Result :=
  (s.putAcc (sub8 (s.getReg .a) d8 false)).finish 2

/-- `SBB r` (R163). -/
def execSbbR (src : Reg8) (s : State) : Result :=
  (s.putAcc (sub8 (s.getReg .a) (s.getReg src) s.flags.cy)).finish 1

/-- `SBB M` (R164). -/
def execSbbM (s : State) : Result :=
  s.load8 s.hl fun v => (s.putAcc (sub8 (s.getReg .a) v s.flags.cy)).finish 1

/-- `SBI d8` (R165). -/
def execSbi (d8 : Byte) (s : State) : Result :=
  (s.putAcc (sub8 (s.getReg .a) d8 s.flags.cy)).finish 2

/-- `INR r` (R166): `CY` is kept. -/
def execInrR (dst : Reg8) (s : State) : Result :=
  let r := inc8 (s.getReg dst) s.flags
  ((s.setReg dst r.res).setFlags r.flags).finish 1

/-- `INR M` (R167): the read is checked, and the write is at the same address. -/
def execInrM (s : State) : Result :=
  s.load8 s.hl fun v =>
    let r := inc8 v s.flags
    ((s.poke s.hl r.res).setFlags r.flags).finish 1

/-- `DCR r` (R168): `CY` is kept. -/
def execDcrR (dst : Reg8) (s : State) : Result :=
  let r := dec8 (s.getReg dst) s.flags
  ((s.setReg dst r.res).setFlags r.flags).finish 1

/-- `DCR M` (R169): the read is checked, and the write is at the same address. -/
def execDcrM (s : State) : Result :=
  s.load8 s.hl fun v =>
    let r := dec8 v s.flags
    ((s.poke s.hl r.res).setFlags r.flags).finish 1

/-- `INX rp` (R170): no flag. -/
def execInx (pr : Pair) (s : State) : Result :=
  (s.setPair pr (s.getPair pr + 1)).finish 1

/-- `DCX rp` (R171): no flag. -/
def execDcx (pr : Pair) (s : State) : Result :=
  (s.setPair pr (s.getPair pr - 1)).finish 1

/-- `DAD rp` (R172): `CY` only. -/
def execDad (pr : Pair) (s : State) : Result :=
  let r := add16 s.hl (s.getPair pr)
  ((s.setPair .hl r.1).setCy r.2).finish 1

/-- `DAA` (R173). -/
def execDaa (s : State) : Result :=
  (s.putAcc (daa8 (s.getReg .a) s.flags)).finish 1

end Sys2Proof.Machine
end

