-- ==== Sys2Proof/Machine/Control.lean ====
section
/-! DEFINITION. The control transfer instructions (43_control_flow.md R220 to R253). None writes a flag. -/

namespace Sys2Proof.Machine

/-- `JMP a16` (R222). -/
def execJmp (a16 : Word) (s : State) : Result :=
  .next (s.setPc a16)

/-- `JNZ a16` (R224). -/
def execJnz (a16 : Word) (s : State) : Result :=
  s.jumpIf (condHolds s.flags .nz) a16

/-- `JZ a16` (R225). -/
def execJz (a16 : Word) (s : State) : Result :=
  s.jumpIf (condHolds s.flags .z) a16

/-- `JNC a16` (R226). -/
def execJnc (a16 : Word) (s : State) : Result :=
  s.jumpIf (condHolds s.flags .nc) a16

/-- `JC a16` (R227). -/
def execJc (a16 : Word) (s : State) : Result :=
  s.jumpIf (condHolds s.flags .c) a16

/-- `JPO a16` (R228). -/
def execJpo (a16 : Word) (s : State) : Result :=
  s.jumpIf (condHolds s.flags .po) a16

/-- `JPE a16` (R229). -/
def execJpe (a16 : Word) (s : State) : Result :=
  s.jumpIf (condHolds s.flags .pe) a16

/-- `JP a16` (R230). -/
def execJp (a16 : Word) (s : State) : Result :=
  s.jumpIf (condHolds s.flags .p) a16

/-- `JM a16` (R231). -/
def execJm (a16 : Word) (s : State) : Result :=
  s.jumpIf (condHolds s.flags .m) a16

/-- `CALL a16` (R232). -/
def execCall (a16 : Word) (s : State) : Result :=
  s.callTo 3 a16

/-- `CNZ a16` (R234). -/
def execCnz (a16 : Word) (s : State) : Result :=
  s.callIf (condHolds s.flags .nz) a16

/-- `CZ a16` (R235). -/
def execCz (a16 : Word) (s : State) : Result :=
  s.callIf (condHolds s.flags .z) a16

/-- `CNC a16` (R236). -/
def execCnc (a16 : Word) (s : State) : Result :=
  s.callIf (condHolds s.flags .nc) a16

/-- `CC a16` (R237). -/
def execCc (a16 : Word) (s : State) : Result :=
  s.callIf (condHolds s.flags .c) a16

/-- `CPO a16` (R238). -/
def execCpo (a16 : Word) (s : State) : Result :=
  s.callIf (condHolds s.flags .po) a16

/-- `CPE a16` (R239). -/
def execCpe (a16 : Word) (s : State) : Result :=
  s.callIf (condHolds s.flags .pe) a16

/-- `CP a16` (R240). -/
def execCp (a16 : Word) (s : State) : Result :=
  s.callIf (condHolds s.flags .p) a16

/-- `CM a16` (R241). -/
def execCm (a16 : Word) (s : State) : Result :=
  s.callIf (condHolds s.flags .m) a16

/-- `RET` (R242). -/
def execRet (s : State) : Result :=
  s.popPc

/-- `RNZ` (R244). -/
def execRnz (s : State) : Result :=
  s.returnIf (condHolds s.flags .nz)

/-- `RZ` (R245). -/
def execRz (s : State) : Result :=
  s.returnIf (condHolds s.flags .z)

/-- `RNC` (R246). -/
def execRnc (s : State) : Result :=
  s.returnIf (condHolds s.flags .nc)

/-- `RC` (R247). -/
def execRc (s : State) : Result :=
  s.returnIf (condHolds s.flags .c)

/-- `RPO` (R248). -/
def execRpo (s : State) : Result :=
  s.returnIf (condHolds s.flags .po)

/-- `RPE` (R249). -/
def execRpe (s : State) : Result :=
  s.returnIf (condHolds s.flags .pe)

/-- `RP` (R250). -/
def execRp (s : State) : Result :=
  s.returnIf (condHolds s.flags .p)

/-- `RM` (R251). -/
def execRm (s : State) : Result :=
  s.returnIf (condHolds s.flags .m)

/-- The restart target `n * 8`, zero extended (R252). -/
def restartTarget (n : BitVec 3) : Word := BitVec.ofNat 16 (n.toNat * 8)

/-- `RST n` (R252). -/
def execRst (n : BitVec 3) (s : State) : Result :=
  s.callTo 1 (restartTarget n)

/-- `PCHL` (R253). -/
def execPchl (s : State) : Result :=
  .next (s.setPc s.hl)

end Sys2Proof.Machine
end

