-- ==== Sys2Proof/Machine/DataTransfer.lean ====
section
/-! DEFINITION. The data transfer instructions (40_data_transfer.md R120 to R133). None reads or writes a flag. -/

namespace Sys2Proof.Machine

/-- `MOV r1,r2` (R121). -/
def execMovRR (dst src : Reg8) (s : State) : Result :=
  (s.setReg dst (s.getReg src)).finish 1

/-- `MOV r,M` (R122): the address is the old `HL`. -/
def execMovRM (dst : Reg8) (s : State) : Result :=
  s.load8 s.hl fun v => (s.setReg dst v).finish 1

/-- `MOV M,r` (R123). -/
def execMovMR (src : Reg8) (s : State) : Result :=
  s.store8 s.hl (s.getReg src) fun t => t.finish 1

/-- `MVI r,d8` (R124). -/
def execMviR (dst : Reg8) (d8 : Byte) (s : State) : Result :=
  (s.setReg dst d8).finish 2

/-- `MVI M,d8` (R125). -/
def execMviM (d8 : Byte) (s : State) : Result :=
  s.store8 s.hl d8 fun t => t.finish 2

/-- `LXI rp,d16` (R126). -/
def execLxi (pr : Pair) (d16 : Word) (s : State) : Result :=
  (s.setPair pr d16).finish 3

/-- `LDA a16` (R127). -/
def execLda (a16 : Word) (s : State) : Result :=
  s.load8 a16 fun v => (s.setReg .a v).finish 3

/-- `STA a16` (R128). -/
def execSta (a16 : Word) (s : State) : Result :=
  s.store8 a16 (s.getReg .a) fun t => t.finish 3

/-- `LHLD a16` (R129): `L` from `a16`, `H` from the byte after it. -/
def execLhld (a16 : Word) (s : State) : Result :=
  s.load16 a16 fun v => (s.setPair .hl v).finish 3

/-- `SHLD a16` (R130): `L` to `a16`, `H` to the byte after it. -/
def execShld (a16 : Word) (s : State) : Result :=
  s.store16 a16 s.hl fun t => t.finish 3

/-- `LDAX rp` (R131). -/
def execLdax (pr : Pair) (s : State) : Result :=
  s.load8 (s.getPair pr) fun v => (s.setReg .a v).finish 1

/-- `STAX rp` (R132). -/
def execStax (pr : Pair) (s : State) : Result :=
  s.store8 (s.getPair pr) (s.getReg .a) fun t => t.finish 1

/-- `XCHG` (R133): both pairs at once. -/
def execXchg (s : State) : Result :=
  ((s.setPair .hl s.de).setPair .de s.hl).finish 1

end Sys2Proof.Machine
end

