-- ==== Sys2Proof/Machine/Io.lean ====
section
/-! DEFINITION. The input/output instructions (46_io.md R311, R312). -/

namespace Sys2Proof.Machine

/-- `OUT d8` (R311). -/
def execOut (port : Byte) (s : State) : Result :=
  (s.setIo (s.io.portWrite port (s.getReg .a))).finish 2

/-- `IN d8` (R312): no flag; the controller is not changed. -/
def execIn (port : Byte) (s : State) : Result :=
  (s.setReg .a (s.io.portRead port)).finish 2

end Sys2Proof.Machine
end

