-- ==== Sys2Proof/Machine/Logical.lean ====
section
/-! DEFINITION. The logical, compare, rotate and carry instructions (42_logical.md R190 to R210). -/

namespace Sys2Proof.Machine

/-- `ANA r` (R191). -/
def execAnaR (src : Reg8) (s : State) : Result :=
  (s.putAcc (logic8 (s.getReg .a &&& s.getReg src))).finish 1

/-- `ANA M` (R192). -/
def execAnaM (s : State) : Result :=
  s.load8 s.hl fun v => (s.putAcc (logic8 (s.getReg .a &&& v))).finish 1

/-- `ANI d8` (R193). -/
def execAni (d8 : Byte) (s : State) : Result :=
  (s.putAcc (logic8 (s.getReg .a &&& d8))).finish 2

/-- `XRA r` (R194). -/
def execXraR (src : Reg8) (s : State) : Result :=
  (s.putAcc (logic8 (s.getReg .a ^^^ s.getReg src))).finish 1

/-- `XRA M` (R195). -/
def execXraM (s : State) : Result :=
  s.load8 s.hl fun v => (s.putAcc (logic8 (s.getReg .a ^^^ v))).finish 1

/-- `XRI d8` (R196). -/
def execXri (d8 : Byte) (s : State) : Result :=
  (s.putAcc (logic8 (s.getReg .a ^^^ d8))).finish 2

/-- `ORA r` (R197). -/
def execOraR (src : Reg8) (s : State) : Result :=
  (s.putAcc (logic8 (s.getReg .a ||| s.getReg src))).finish 1

/-- `ORA M` (R198). -/
def execOraM (s : State) : Result :=
  s.load8 s.hl fun v => (s.putAcc (logic8 (s.getReg .a ||| v))).finish 1

/-- `ORI d8` (R199). -/
def execOri (d8 : Byte) (s : State) : Result :=
  (s.putAcc (logic8 (s.getReg .a ||| d8))).finish 2

/-- `CMP r` (R200): the flags of `A - r`; `A` is kept. -/
def execCmpR (src : Reg8) (s : State) : Result :=
  (s.setFlags (sub8 (s.getReg .a) (s.getReg src) false).flags).finish 1

/-- `CMP M` (R201). -/
def execCmpM (s : State) : Result :=
  s.load8 s.hl fun v => (s.setFlags (sub8 (s.getReg .a) v false).flags).finish 1

/-- `CPI d8` (R202). -/
def execCpi (d8 : Byte) (s : State) : Result :=
  (s.setFlags (sub8 (s.getReg .a) d8 false).flags).finish 2

/-- `RLC` (R203): `A` and `CY` only. -/
def execRlc (s : State) : Result :=
  (s.putRotate (rlc8 (s.getReg .a))).finish 1

/-- `RRC` (R204): `A` and `CY` only. -/
def execRrc (s : State) : Result :=
  (s.putRotate (rrc8 (s.getReg .a))).finish 1

/-- `RAL` (R205): `A` and `CY` only. -/
def execRal (s : State) : Result :=
  (s.putRotate (ral8 (s.getReg .a) s.flags.cy)).finish 1

/-- `RAR` (R206): `A` and `CY` only. -/
def execRar (s : State) : Result :=
  (s.putRotate (rar8 (s.getReg .a) s.flags.cy)).finish 1

/-- `CMA` (R207): no flag. -/
def execCma (s : State) : Result :=
  (s.setReg .a (s.getReg .a ^^^ 0xFF)).finish 1

/-- `CMC` (R208). -/
def execCmc (s : State) : Result :=
  (s.setCy !s.flags.cy).finish 1

/-- `STC` (R209). -/
def execStc (s : State) : Result :=
  (s.setCy true).finish 1

end Sys2Proof.Machine
end

