-- ==== Sys2Proof/Machine/MachineControl.lean ====
section
/-! DEFINITION. Machine control and the undefined opcode bytes (45_machine_control.md R290 to R295). -/

namespace Sys2Proof.Machine

/-- `NOP` (R290). -/
def execNop (s : State) : Result :=
  s.finish 1

/-- `HLT` (R291): `PC` is past the `HLT` byte (decision D13). -/
def execHlt (s : State) : Result :=
  (s.setStatus .halted).finish 1

/-- `EI` (R292): at once. -/
def execEi (s : State) : Result :=
  (s.setInte true).finish 1

/-- `DI` (R293): at once. -/
def execDi (s : State) : Result :=
  (s.setInte false).finish 1

/-- The seven undefined bytes `00xxx000` (R294): as `NOP`. -/
def execUndefLow (_x : BitVec 3) (s : State) : Result :=
  s.finish 1

/-- The five undefined bytes of quadrant 11 (R295): as `NOP`, with `UNDOC_ALIAS = nop`. Under `chip` the
fetch reads them as another opcode and they never get here (log 10). -/
def execUndefHigh (_u : UndefHigh) (s : State) : Result :=
  s.finish 1

end Sys2Proof.Machine
end

