-- ==== Sys2Proof/Machine/Stack.lean ====
section
/-! DEFINITION. The stack instructions (44_stack.md R270 to R278). -/

namespace Sys2Proof.Machine

/-- `PUSH rp` (R272). -/
def execPush (pr : Pair) (s : State) : Result :=
  s.push16 (s.getPair pr) fun t => t.finish 1

/-- `PUSH PSW` (R273): `A` is the high byte (decision D29). -/
def execPushPsw (s : State) : Result :=
  s.push16 (joinBytes (s.getReg .a) (pswByte s.flags)) fun t => t.finish 1

/-- `POP rp` (R274). -/
def execPop (pr : Pair) (s : State) : Result :=
  s.pop16 fun v t => (t.setPair pr v).finish 1

/-- `POP PSW` (R275). -/
def execPopPsw (s : State) : Result :=
  s.pop16 fun v t => ((t.setReg .a (hiByte v)).setFlags (unpackPsw (loByte v))).finish 1

/-- `XTHL` (R276): the two reads are checked, and the writes are at the same addresses; `SP` is kept. -/
def execXthl (s : State) : Result :=
  s.load16 s.sp fun v =>
    (((s.poke s.sp s.regs.l).poke (s.sp + 1) s.regs.h).setPair .hl v).finish 1

/-- `SPHL` (R277). -/
def execSphl (s : State) : Result :=
  (s.setSp s.hl).finish 1

end Sys2Proof.Machine
end

