-- ==== Sys2Proof/Machine/Fetch.lean ====
section
/-! DEFINITION. Fetching one instruction (00_scope.md R11 steps 2 to 4): the opcode byte at `PC`, its
length, then the operand bytes at `PC + 1` and `PC + 2`, all modulo 65536 and all fetched whether or not
a condition holds (20_memory.md R64, decision D12). Every opcode byte decodes (30_encoding.md R103), so
only a range fault can stop a fetch. -/

namespace Sys2Proof.Machine

/-- The opcode byte `b0` as `UNDOC_ALIAS` has it read (45_machine_control.md R295). -/
def State.opcodeOf (s : State) (b0 : Byte) : Byte := aliasOpcode s.cfg.undocAlias b0

/-- Fetch the operand bytes that format `f` has, and go on with the decoded instruction. -/
def State.fetchOperands (s : State) (op : Byte) (f : Format) (k : Instr → Result) : Result :=
  match f with
  | .f1 => k (decodeOp op 0 0)
  | .f2 => s.fetchByte (s.pc + 1) fun b1 => k (decodeOp op b1 0)
  | .f3 => s.fetchByte (s.pc + 1) fun b1 => s.fetchByte (s.pc + 2) fun b2 => k (decodeOp op b1 b2)

/-- Fetch and decode the instruction at `PC`, and go on with it. -/
def State.fetchInstr (s : State) (k : Instr → Result) : Result :=
  s.fetchByte s.pc fun b0 =>
    s.fetchOperands (s.opcodeOf b0) (opcodeFormat (s.opcodeOf b0)) k

/-- The instruction the bytes at `PC` are, read without a range check: what `fetchInstr` goes on with
when no fetch faults. -/
def State.currentInstr (s : State) : Instr :=
  let op := s.opcodeOf (s.peek s.pc)
  match opcodeFormat op with
  | .f1 => decodeOp op 0 0
  | .f2 => decodeOp op (s.peek (s.pc + 1)) 0
  | .f3 => decodeOp op (s.peek (s.pc + 1)) (s.peek (s.pc + 2))

/-- Three bytes of a table word written at `PC`, `PC + 1`, `PC + 2`. -/
def State.placeWord (s : State) (nbits w : Nat) : State :=
  ((s.poke s.pc (tableByte nbits w 0)).poke (s.pc + 1) (tableByte nbits w 1)).poke (s.pc + 2)
    (tableByte nbits w 2)

end Sys2Proof.Machine
end

