-- ==== Sys2Proof/Machine/Step.lean ====
section
/-! DEFINITION. One step (00_scope.md R9, R11): fetch, decode, execute. -/

namespace Sys2Proof.Machine

/-- `step()` (R11). -/
def step (s : State) : Host.Outcome State Fault Refusal :=
  s.dispatch fun u => u.fetchInstr fun i => exec i u

/-- `s` with the instruction of a table word placed where the next step fetches it: its three bytes at
`PC`, and `status` `Running`, which a fetch needs. The three addresses must be below `MEMSIZE`, as they
are at reset (log 7). -/
def State.withFetchWord (s : State) (nbits w : Nat) : State :=
  (s.setStatus .running).placeWord nbits w

end Sys2Proof.Machine
end

