-- ==== Sys2Proof/Laws/PerInstr.lean ====
section
/-! SUPPORT. The per-instruction family `EncodeLength`: a well-formed instruction is encoded in as many
bytes as its format has, and its opcode byte alone tells that format (30_encoding.md R90, R91). -/

namespace Sys2Proof.Laws.EncodeLength

/-- The encoding is as long as the instruction, and the opcode byte begins an instruction of that
format. -/
def Statement (i : Instr) : Prop :=
  i.wf = true → (encode i).length = i.length ∧ opcodeFormat i.opcodeByte = i.format

theorem format_of {i : Instr} {f : Format} (b : Byte) (hb : i.opcodeByte = b)
    (hf : opcodeFormat b = f) : opcodeFormat i.opcodeByte = f := hb ▸ hf

theorem movRR (dst : Reg8) (src : Reg8) : Statement (.movRR dst src) := by
  intro _; cases dst <;> cases src <;> exact ⟨rfl, format_of (Instr.movRR _ _).opcodeByte rfl rfl⟩
theorem movRM (dst : Reg8) : Statement (.movRM dst) := by
  intro _; cases dst <;> exact ⟨rfl, format_of (Instr.movRM _).opcodeByte rfl rfl⟩
theorem movMR (src : Reg8) : Statement (.movMR src) := by
  intro _; cases src <;> exact ⟨rfl, format_of (Instr.movMR _).opcodeByte rfl rfl⟩
theorem mviR (dst : Reg8) (d8 : Byte) : Statement (.mviR dst d8) := by
  intro _; cases dst <;> exact ⟨rfl, format_of (Instr.mviR _ 0).opcodeByte rfl rfl⟩
theorem mviM (d8 : Byte) : Statement (.mviM d8) := fun _ => ⟨rfl, format_of (Instr.mviM 0).opcodeByte rfl rfl⟩
theorem lxi (pr : Pair) (d16 : Word) : Statement (.lxi pr d16) := by
  intro _; cases pr <;> exact ⟨rfl, format_of (Instr.lxi _ 0).opcodeByte rfl rfl⟩
theorem lda (a16 : Word) : Statement (.lda a16) := fun _ => ⟨rfl, format_of (Instr.lda 0).opcodeByte rfl rfl⟩
theorem sta (a16 : Word) : Statement (.sta a16) := fun _ => ⟨rfl, format_of (Instr.sta 0).opcodeByte rfl rfl⟩
theorem lhld (a16 : Word) : Statement (.lhld a16) := fun _ => ⟨rfl, format_of (Instr.lhld 0).opcodeByte rfl rfl⟩
theorem shld (a16 : Word) : Statement (.shld a16) := fun _ => ⟨rfl, format_of (Instr.shld 0).opcodeByte rfl rfl⟩
theorem ldax (pr : Pair) : Statement (.ldax pr) := by
  intro h; cases pr <;> first | exact ⟨rfl, format_of (Instr.ldax _).opcodeByte rfl rfl⟩ | cases h
theorem stax (pr : Pair) : Statement (.stax pr) := by
  intro h; cases pr <;> first | exact ⟨rfl, format_of (Instr.stax _).opcodeByte rfl rfl⟩ | cases h
theorem xchg : Statement (.xchg) := fun _ => ⟨rfl, format_of (Instr.xchg).opcodeByte rfl rfl⟩
theorem addR (src : Reg8) : Statement (.addR src) := by
  intro _; cases src <;> exact ⟨rfl, format_of (Instr.addR _).opcodeByte rfl rfl⟩
theorem addM : Statement (.addM) := fun _ => ⟨rfl, format_of (Instr.addM).opcodeByte rfl rfl⟩
theorem adi (d8 : Byte) : Statement (.adi d8) := fun _ => ⟨rfl, format_of (Instr.adi 0).opcodeByte rfl rfl⟩
theorem adcR (src : Reg8) : Statement (.adcR src) := by
  intro _; cases src <;> exact ⟨rfl, format_of (Instr.adcR _).opcodeByte rfl rfl⟩
theorem adcM : Statement (.adcM) := fun _ => ⟨rfl, format_of (Instr.adcM).opcodeByte rfl rfl⟩
theorem aci (d8 : Byte) : Statement (.aci d8) := fun _ => ⟨rfl, format_of (Instr.aci 0).opcodeByte rfl rfl⟩
theorem subR (src : Reg8) : Statement (.subR src) := by
  intro _; cases src <;> exact ⟨rfl, format_of (Instr.subR _).opcodeByte rfl rfl⟩
theorem subM : Statement (.subM) := fun _ => ⟨rfl, format_of (Instr.subM).opcodeByte rfl rfl⟩
theorem sui (d8 : Byte) : Statement (.sui d8) := fun _ => ⟨rfl, format_of (Instr.sui 0).opcodeByte rfl rfl⟩
theorem sbbR (src : Reg8) : Statement (.sbbR src) := by
  intro _; cases src <;> exact ⟨rfl, format_of (Instr.sbbR _).opcodeByte rfl rfl⟩
theorem sbbM : Statement (.sbbM) := fun _ => ⟨rfl, format_of (Instr.sbbM).opcodeByte rfl rfl⟩
theorem sbi (d8 : Byte) : Statement (.sbi d8) := fun _ => ⟨rfl, format_of (Instr.sbi 0).opcodeByte rfl rfl⟩
theorem inrR (dst : Reg8) : Statement (.inrR dst) := by
  intro _; cases dst <;> exact ⟨rfl, format_of (Instr.inrR _).opcodeByte rfl rfl⟩
theorem inrM : Statement (.inrM) := fun _ => ⟨rfl, format_of (Instr.inrM).opcodeByte rfl rfl⟩
theorem dcrR (dst : Reg8) : Statement (.dcrR dst) := by
  intro _; cases dst <;> exact ⟨rfl, format_of (Instr.dcrR _).opcodeByte rfl rfl⟩
theorem dcrM : Statement (.dcrM) := fun _ => ⟨rfl, format_of (Instr.dcrM).opcodeByte rfl rfl⟩
theorem inx (pr : Pair) : Statement (.inx pr) := by
  intro _; cases pr <;> exact ⟨rfl, format_of (Instr.inx _).opcodeByte rfl rfl⟩
theorem dcx (pr : Pair) : Statement (.dcx pr) := by
  intro _; cases pr <;> exact ⟨rfl, format_of (Instr.dcx _).opcodeByte rfl rfl⟩
theorem dad (pr : Pair) : Statement (.dad pr) := by
  intro _; cases pr <;> exact ⟨rfl, format_of (Instr.dad _).opcodeByte rfl rfl⟩
theorem daa : Statement (.daa) := fun _ => ⟨rfl, format_of (Instr.daa).opcodeByte rfl rfl⟩
theorem anaR (src : Reg8) : Statement (.anaR src) := by
  intro _; cases src <;> exact ⟨rfl, format_of (Instr.anaR _).opcodeByte rfl rfl⟩
theorem anaM : Statement (.anaM) := fun _ => ⟨rfl, format_of (Instr.anaM).opcodeByte rfl rfl⟩
theorem ani (d8 : Byte) : Statement (.ani d8) := fun _ => ⟨rfl, format_of (Instr.ani 0).opcodeByte rfl rfl⟩
theorem xraR (src : Reg8) : Statement (.xraR src) := by
  intro _; cases src <;> exact ⟨rfl, format_of (Instr.xraR _).opcodeByte rfl rfl⟩
theorem xraM : Statement (.xraM) := fun _ => ⟨rfl, format_of (Instr.xraM).opcodeByte rfl rfl⟩
theorem xri (d8 : Byte) : Statement (.xri d8) := fun _ => ⟨rfl, format_of (Instr.xri 0).opcodeByte rfl rfl⟩
theorem oraR (src : Reg8) : Statement (.oraR src) := by
  intro _; cases src <;> exact ⟨rfl, format_of (Instr.oraR _).opcodeByte rfl rfl⟩
theorem oraM : Statement (.oraM) := fun _ => ⟨rfl, format_of (Instr.oraM).opcodeByte rfl rfl⟩
theorem ori (d8 : Byte) : Statement (.ori d8) := fun _ => ⟨rfl, format_of (Instr.ori 0).opcodeByte rfl rfl⟩
theorem cmpR (src : Reg8) : Statement (.cmpR src) := by
  intro _; cases src <;> exact ⟨rfl, format_of (Instr.cmpR _).opcodeByte rfl rfl⟩
theorem cmpM : Statement (.cmpM) := fun _ => ⟨rfl, format_of (Instr.cmpM).opcodeByte rfl rfl⟩
theorem cpi (d8 : Byte) : Statement (.cpi d8) := fun _ => ⟨rfl, format_of (Instr.cpi 0).opcodeByte rfl rfl⟩
theorem rlc : Statement (.rlc) := fun _ => ⟨rfl, format_of (Instr.rlc).opcodeByte rfl rfl⟩
theorem rrc : Statement (.rrc) := fun _ => ⟨rfl, format_of (Instr.rrc).opcodeByte rfl rfl⟩
theorem ral : Statement (.ral) := fun _ => ⟨rfl, format_of (Instr.ral).opcodeByte rfl rfl⟩
theorem rar : Statement (.rar) := fun _ => ⟨rfl, format_of (Instr.rar).opcodeByte rfl rfl⟩
theorem cma : Statement (.cma) := fun _ => ⟨rfl, format_of (Instr.cma).opcodeByte rfl rfl⟩
theorem cmc : Statement (.cmc) := fun _ => ⟨rfl, format_of (Instr.cmc).opcodeByte rfl rfl⟩
theorem stc : Statement (.stc) := fun _ => ⟨rfl, format_of (Instr.stc).opcodeByte rfl rfl⟩
theorem jmp (a16 : Word) : Statement (.jmp a16) := fun _ => ⟨rfl, format_of (Instr.jmp 0).opcodeByte rfl rfl⟩
theorem jnz (a16 : Word) : Statement (.jnz a16) := fun _ => ⟨rfl, format_of (Instr.jnz 0).opcodeByte rfl rfl⟩
theorem jz (a16 : Word) : Statement (.jz a16) := fun _ => ⟨rfl, format_of (Instr.jz 0).opcodeByte rfl rfl⟩
theorem jnc (a16 : Word) : Statement (.jnc a16) := fun _ => ⟨rfl, format_of (Instr.jnc 0).opcodeByte rfl rfl⟩
theorem jc (a16 : Word) : Statement (.jc a16) := fun _ => ⟨rfl, format_of (Instr.jc 0).opcodeByte rfl rfl⟩
theorem jpo (a16 : Word) : Statement (.jpo a16) := fun _ => ⟨rfl, format_of (Instr.jpo 0).opcodeByte rfl rfl⟩
theorem jpe (a16 : Word) : Statement (.jpe a16) := fun _ => ⟨rfl, format_of (Instr.jpe 0).opcodeByte rfl rfl⟩
theorem jp (a16 : Word) : Statement (.jp a16) := fun _ => ⟨rfl, format_of (Instr.jp 0).opcodeByte rfl rfl⟩
theorem jm (a16 : Word) : Statement (.jm a16) := fun _ => ⟨rfl, format_of (Instr.jm 0).opcodeByte rfl rfl⟩
theorem call (a16 : Word) : Statement (.call a16) := fun _ => ⟨rfl, format_of (Instr.call 0).opcodeByte rfl rfl⟩
theorem cnz (a16 : Word) : Statement (.cnz a16) := fun _ => ⟨rfl, format_of (Instr.cnz 0).opcodeByte rfl rfl⟩
theorem cz (a16 : Word) : Statement (.cz a16) := fun _ => ⟨rfl, format_of (Instr.cz 0).opcodeByte rfl rfl⟩
theorem cnc (a16 : Word) : Statement (.cnc a16) := fun _ => ⟨rfl, format_of (Instr.cnc 0).opcodeByte rfl rfl⟩
theorem cc (a16 : Word) : Statement (.cc a16) := fun _ => ⟨rfl, format_of (Instr.cc 0).opcodeByte rfl rfl⟩
theorem cpo (a16 : Word) : Statement (.cpo a16) := fun _ => ⟨rfl, format_of (Instr.cpo 0).opcodeByte rfl rfl⟩
theorem cpe (a16 : Word) : Statement (.cpe a16) := fun _ => ⟨rfl, format_of (Instr.cpe 0).opcodeByte rfl rfl⟩
theorem cp (a16 : Word) : Statement (.cp a16) := fun _ => ⟨rfl, format_of (Instr.cp 0).opcodeByte rfl rfl⟩
theorem cm (a16 : Word) : Statement (.cm a16) := fun _ => ⟨rfl, format_of (Instr.cm 0).opcodeByte rfl rfl⟩
theorem ret : Statement (.ret) := fun _ => ⟨rfl, format_of (Instr.ret).opcodeByte rfl rfl⟩
theorem rnz : Statement (.rnz) := fun _ => ⟨rfl, format_of (Instr.rnz).opcodeByte rfl rfl⟩
theorem rz : Statement (.rz) := fun _ => ⟨rfl, format_of (Instr.rz).opcodeByte rfl rfl⟩
theorem rnc : Statement (.rnc) := fun _ => ⟨rfl, format_of (Instr.rnc).opcodeByte rfl rfl⟩
theorem rc : Statement (.rc) := fun _ => ⟨rfl, format_of (Instr.rc).opcodeByte rfl rfl⟩
theorem rpo : Statement (.rpo) := fun _ => ⟨rfl, format_of (Instr.rpo).opcodeByte rfl rfl⟩
theorem rpe : Statement (.rpe) := fun _ => ⟨rfl, format_of (Instr.rpe).opcodeByte rfl rfl⟩
theorem rp : Statement (.rp) := fun _ => ⟨rfl, format_of (Instr.rp).opcodeByte rfl rfl⟩
theorem rm : Statement (.rm) := fun _ => ⟨rfl, format_of (Instr.rm).opcodeByte rfl rfl⟩
theorem rst (n : BitVec 3) : Statement (.rst n) := by
  revert n; unfold Statement; decide
theorem pchl : Statement (.pchl) := fun _ => ⟨rfl, format_of (Instr.pchl).opcodeByte rfl rfl⟩
theorem push (pr : Pair) : Statement (.push pr) := by
  intro _; cases pr <;> exact ⟨rfl, format_of (Instr.push _).opcodeByte rfl rfl⟩
theorem pushPsw : Statement (.pushPsw) := fun _ => ⟨rfl, format_of (Instr.pushPsw).opcodeByte rfl rfl⟩
theorem pop (pr : Pair) : Statement (.pop pr) := by
  intro _; cases pr <;> exact ⟨rfl, format_of (Instr.pop _).opcodeByte rfl rfl⟩
theorem popPsw : Statement (.popPsw) := fun _ => ⟨rfl, format_of (Instr.popPsw).opcodeByte rfl rfl⟩
theorem xthl : Statement (.xthl) := fun _ => ⟨rfl, format_of (Instr.xthl).opcodeByte rfl rfl⟩
theorem sphl : Statement (.sphl) := fun _ => ⟨rfl, format_of (Instr.sphl).opcodeByte rfl rfl⟩
theorem nop : Statement (.nop) := fun _ => ⟨rfl, format_of (Instr.nop).opcodeByte rfl rfl⟩
theorem hlt : Statement (.hlt) := fun _ => ⟨rfl, format_of (Instr.hlt).opcodeByte rfl rfl⟩
theorem ei : Statement (.ei) := fun _ => ⟨rfl, format_of (Instr.ei).opcodeByte rfl rfl⟩
theorem di : Statement (.di) := fun _ => ⟨rfl, format_of (Instr.di).opcodeByte rfl rfl⟩
theorem undefLow (x : BitVec 3) : Statement (.undefLow x) := by
  revert x; unfold Statement; decide
theorem undefHigh (u : UndefHigh) : Statement (.undefHigh u) := by
  intro _; cases u <;> exact ⟨rfl, format_of (Instr.undefHigh _).opcodeByte rfl rfl⟩
theorem out (port : Byte) : Statement (.out port) := fun _ => ⟨rfl, format_of (Instr.out 0).opcodeByte rfl rfl⟩
theorem inp (port : Byte) : Statement (.inp port) := fun _ => ⟨rfl, format_of (Instr.inp 0).opcodeByte rfl rfl⟩

end Sys2Proof.Laws.EncodeLength
end

