-- ==== Sys2Proof/Machine/Boundary.lean ====
section
/-! DEFINITION. The block's boundary with its host (00_scope.md R4, 70_reset_and_hazards.md R370): `load`,
the report of a step, `is_done()`, the ends of a run, and the read-only accessors. -/

namespace Sys2Proof.Machine

/-- What the model refuses the host, without touching the machine. -/
inductive HostRefusal where
  /-- `load` with `MEMSIZE` outside 1 to 65536 (R362, decision D1). Safe. -/
  | badMemSize (memSize : Nat)
  /-- `load` with an image whose length is not `MEMSIZE` (93_implementation_defined.md I4). Safe. -/
  | badImageLength (length memSize : Nat)
  /-- A memory query at or above `MEMSIZE` (R371, decision D26). Safe. -/
  | queryOutOfRange (addr : Nat)
  deriving DecidableEq, Repr

/-- A list of bytes from address `n` on, in the canonical form of memory. -/
def Memory.ofBytesFrom (n : Nat) : List Byte → Memory
  | [] => []
  | v :: vs =>
    if v = Memory.unlisted then Memory.ofBytesFrom (n + 1) vs
    else (n, v) :: Memory.ofBytesFrom (n + 1) vs

/-- `load(IMAGE, MEMSIZE, RESET_PC)` (R360, R362): the one reset, and the only way out of `Halted` and
`Faulted`. `mem[i] = IMAGE[i]`, `PC = RESET_PC`, `status = Running`, the rest as at reset. -/
def load (image : List Byte) (cfg : Config) (resetPc : Word) : Except HostRefusal State :=
  if ¬ cfg.Legal then .error (.badMemSize cfg.memSize)
  else if image.length ≠ cfg.memSize then .error (.badImageLength image.length cfg.memSize)
  else .ok { State.reset with mem := Memory.ofBytesFrom 0 image, pc := resetPc, cfg := cfg }

/-- What `step()` returns to the host (00_scope.md R9). -/
inductive Report where
  /-- `Next`: one instruction was executed and the machine still runs. -/
  | next
  /-- `Halted`: this step executed `HLT`, or the machine was halted already (R291, R296). -/
  | halted
  /-- `Fault(OutOfRange, kind, addr)`. -/
  | fault (f : Fault)
  /-- The model gave no meaning; never reported, since every instruction has one. -/
  | refused (r : Refusal)
  deriving DecidableEq, Repr

/-- The report of a step that answered a next state: `Halted` exactly when `status` is `Halted` now. -/
def State.report (t : State) : Report :=
  match t.status with
  | .halted => .halted
  | .running | .faulted => .next

/-- `step()` as the host sees it: the machine after it and the report. A fault leaves everything but
`status` as it was before the step (60_exceptions.md R335). -/
def hostStep (s : State) : State × Report :=
  match step s with
  | .next t => (t, t.report)
  | .fault f => (s.enterFault, .fault f)
  | .refused r => (s, .refused r)

/-- `is_done()` (60_exceptions.md R340): not running, or `PC` past the end of memory. -/
def State.isDone (s : State) : Bool := (s.status != .running) || !s.inRange s.pc

/-- How a run ends, seen in the machine itself (60_exceptions.md R341); the fourth way, the host ceasing
to step, is outside the core. -/
inductive RunEnd where
  /-- `HLT` was executed: normal. -/
  | halted
  /-- `PC` is at or above `MEMSIZE` and no fault has been raised yet. -/
  | ranOff
  /-- A fault was raised. -/
  | faulted
  deriving DecidableEq, Repr

/-- The end the run has reached, if it has reached one (R341). -/
def State.runEnd (s : State) : Option RunEnd :=
  match s.status with
  | .halted => some .halted
  | .faulted => some .faulted
  | .running => if s.inRange s.pc then none else some .ranOff

/-- The read-only accessors (60_exceptions.md R346): a register. -/
def snapshotReg (s : State) (x : Reg8) : Byte := s.getReg x

/-- A pair view or `SP` (R346). -/
def snapshotPair (s : State) (x : Pair) : Word := s.getPair x

/-- A flag (R346). -/
def snapshotFlag (s : State) (x : FlagName) : Bool := s.flags.get x

/-- `PC` (R346). -/
def snapshotPc (s : State) : Word := s.pc

/-- An arbitrary memory byte (20_memory.md R78, R371): refused at or above `MEMSIZE`, with no effect on
the machine. -/
def snapshotMem (s : State) (addr : Nat) : Except HostRefusal Byte :=
  if addr < s.cfg.memSize then .ok (s.mem.read addr) else .error (.queryOutOfRange addr)

end Sys2Proof.Machine
end

