-- ==== Sys2Proof/Safety.lean ====
section
/-! DEFINITION. What counts as a good state and as a safe run, and the words the statements use to say
what is left alone. -/

namespace Sys2Proof.Machine

/-- The invariant of every machine that was loaded: legal parameters (R7, R362), memory in its canonical
form, nothing listed at or above `MEMSIZE` (R36), and `Faulted` only where the instruction at `PC` raises
a fault, which is what every further step answers (R296, R335). -/
structure State.Inv (s : State) : Prop where
  legal : s.cfg.Legal
  wf : s.mem.wf = true
  below : s.mem.below s.cfg.memSize = true
  settled : s.status = .faulted → ∃ f, step (s.setStatus .running) = .fault f

/-- Everything but registers, `SP`, `PC`, flags and memory: `INTE`, `status`, the port controller and the
parameters. -/
structure SameControl (s t : State) : Prop where
  inte : t.inte = s.inte
  status : t.status = s.status
  io : t.io = s.io
  cfg : t.cfg = s.cfg

/-- Every byte of memory reads as before. -/
def SameMem (s t : State) : Prop := ∀ a : Nat, t.mem.read a = s.mem.read a

/-- Every byte of memory outside the addresses `stored` reads as before. -/
def SameMemOutside (stored : List Word) (s t : State) : Prop :=
  ∀ a : Nat, a ∉ stored.map BitVec.toNat → t.mem.read a = s.mem.read a

/-- Every 8-bit register but those of `written` is as before. -/
def SameRegsBut (written : List Reg8) (s t : State) : Prop :=
  ∀ r : Reg8, r ∉ written → t.getReg r = s.getReg r

/-- What an instruction that writes no memory and not `SP` leaves alone: only the registers `written` and
the flags may change, and `PC` goes past its `len` bytes. What it does to the flags is said beside it. -/
structure RegOnly (written : List Reg8) (len : Nat) (s t : State) : Prop where
  regs : SameRegsBut written s t
  sp : t.sp = s.sp
  pc : t.pc = s.pc + BitVec.ofNat 16 len
  control : SameControl s t
  mem : SameMem s t

/-- The same for an instruction that writes the pair `x`, which may be `SP`. -/
structure PairOnly (x : Pair) (len : Nat) (s t : State) : Prop where
  regs : SameRegsBut (pairHalves x) s t
  sp : x ≠ .sp → t.sp = s.sp
  pc : t.pc = s.pc + BitVec.ofNat 16 len
  control : SameControl s t
  mem : SameMem s t

/-- What an instruction that only stores the bytes at `stored` leaves alone: every register, `SP`, every
flag and every other byte, and `PC` goes past its `len` bytes. -/
structure StoreOnly (stored : List Word) (len : Nat) (s t : State) : Prop where
  regs : SameRegsBut [] s t
  sp : t.sp = s.sp
  flags : t.flags = s.flags
  pc : t.pc = s.pc + BitVec.ofNat 16 len
  control : SameControl s t
  mem : SameMemOutside stored s t

/-- A run is safe when no number of steps ends it in a fault or a refusal. -/
def SafeRun (s : State) : Prop :=
  ∀ k : Nat, ∃ t, Sys2Proof.core.run k s = .next t

end Sys2Proof.Machine
end

