-- ==== Sys2Proof/Certificates/Slice0/Obligations.lean ====
section
/-! DEFINITION. The statements about the model, and first the words they are written in: the spec's own
formulas and tables, written out again from spec/ and not through the model's meanings, so that a
statement holds the model against the spec. -/

namespace Sys2Proof.Spec

open Sys2Proof.Machine

/-! ## The ALU's formulas (41_arithmetic.md R150 to R153) -/

/-- R150: `1 ^ v[0] ^ ... ^ v[7]`. -/
def evenParity (v : Byte) : Bool :=
  true ^^ v.getLsbD 0 ^^ v.getLsbD 1 ^^ v.getLsbD 2 ^^ v.getLsbD 3 ^^ v.getLsbD 4 ^^ v.getLsbD 5
    ^^ v.getLsbD 6 ^^ v.getLsbD 7

/-- The number of 1 bits of a byte. -/
def onesCount (v : Byte) : Nat :=
  (v.getLsbD 0).toNat + (v.getLsbD 1).toNat + (v.getLsbD 2).toNat + (v.getLsbD 3).toNat +
    (v.getLsbD 4).toNat + (v.getLsbD 5).toNat + (v.getLsbD 6).toNat + (v.getLsbD 7).toNat

/-- R29, R151: `Z`, `S` and `P` are those of the result `res`. -/
structure ZSP (res : Byte) (f : Flags) : Prop where
  z : f.z = decide (res.toNat = 0)
  s : f.s = decide (128 ≤ res.toNat)
  p : f.p = evenParity res

/-- R152: `res` and `f` are `Add8(a, b, cin)`. -/
structure IsSum (a b : Byte) (cin : Bool) (res : Byte) (f : Flags) : Prop where
  value : res.toNat = (a.toNat + b.toNat + cin.toNat) % 256
  carry : f.cy = decide (a.toNat + b.toNat + cin.toNat > 255)
  aux : f.ac = decide (a.toNat % 16 + b.toNat % 16 + cin.toNat > 15)
  zsp : ZSP res f

/-- R153: `res` and `f` are `Sub8(a, b, bin)`. `AC` is said in the rule's words: 1 when there was no
borrow out of the low nibble (decision D10, log 11). -/
structure IsDifference (a b : Byte) (bin : Bool) (res : Byte) (f : Flags) : Prop where
  value : (res.toNat : Int) = ((a.toNat : Int) - b.toNat - bin.toNat) % 256
  borrow : f.cy = decide (b.toNat + bin.toNat > a.toNat)
  aux : f.ac = decide (b.toNat % 16 + bin.toNat ≤ a.toNat % 16)
  zsp : ZSP res f

/-- R190: `f` are the flags of the bitwise result `res`. -/
structure IsLogic (res : Byte) (f : Flags) : Prop where
  carry : f.cy = false
  aux : f.ac = false
  zsp : ZSP res f

/-! ## Instruction forms of one shape -/

/-- The second operand of the accumulator instructions: a register, `M`, or an immediate (R96). -/
inductive AluSrc where
  | reg (r : Reg8)
  | mem
  | imm (d8 : Byte)

/-- The operand's value, read before anything is written. -/
def AluSrc.value (s : State) : AluSrc → Byte
  | .reg r => s.getReg r
  | .mem => s.peek s.hl
  | .imm d8 => d8

/-- When the operand can be read: `M` needs `HL` below `MEMSIZE`. -/
def AluSrc.Ready (s : State) : AluSrc → Prop
  | .mem => s.hl.toNat < s.cfg.memSize
  | .reg _ | .imm _ => True

/-- The length of the form. -/
def AluSrc.len : AluSrc → Nat
  | .reg _ | .mem => 1
  | .imm _ => 2

def addOf : AluSrc → Instr
  | .reg r => .addR r
  | .mem => .addM
  | .imm d => .adi d

def adcOf : AluSrc → Instr
  | .reg r => .adcR r
  | .mem => .adcM
  | .imm d => .aci d

def subOf : AluSrc → Instr
  | .reg r => .subR r
  | .mem => .subM
  | .imm d => .sui d

def sbbOf : AluSrc → Instr
  | .reg r => .sbbR r
  | .mem => .sbbM
  | .imm d => .sbi d

def anaOf : AluSrc → Instr
  | .reg r => .anaR r
  | .mem => .anaM
  | .imm d => .ani d

def xraOf : AluSrc → Instr
  | .reg r => .xraR r
  | .mem => .xraM
  | .imm d => .xri d

def oraOf : AluSrc → Instr
  | .reg r => .oraR r
  | .mem => .oraM
  | .imm d => .ori d

def cmpOf : AluSrc → Instr
  | .reg r => .cmpR r
  | .mem => .cmpM
  | .imm d => .cpi d

/-- The instructions that load one register from one byte of memory. -/
inductive ByteLoad where
  | movRM (dst : Reg8)
  | lda (a16 : Word)
  | ldax (pr : Pair)

def ByteLoad.instr : ByteLoad → Instr
  | .movRM dst => .movRM dst
  | .lda a => .lda a
  | .ldax pr => .ldax pr

/-- The address read (R122, R127, R131). -/
def ByteLoad.addr (s : State) : ByteLoad → Word
  | .movRM _ => s.hl
  | .lda a => a
  | .ldax pr => s.getPair pr

def ByteLoad.dst : ByteLoad → Reg8
  | .movRM dst => dst
  | .lda _ | .ldax _ => .a

def ByteLoad.len : ByteLoad → Nat
  | .movRM _ | .ldax _ => 1
  | .lda _ => 3

/-- The instructions that store one byte and do nothing else. -/
inductive ByteStore where
  | movMR (src : Reg8)
  | mviM (d8 : Byte)
  | sta (a16 : Word)
  | stax (pr : Pair)

def ByteStore.instr : ByteStore → Instr
  | .movMR src => .movMR src
  | .mviM d => .mviM d
  | .sta a => .sta a
  | .stax pr => .stax pr

/-- The address stored to (R123, R125, R128, R132). -/
def ByteStore.addr (s : State) : ByteStore → Word
  | .movMR _ | .mviM _ => s.hl
  | .sta a => a
  | .stax pr => s.getPair pr

/-- The byte stored. -/
def ByteStore.value (s : State) : ByteStore → Byte
  | .movMR src => s.getReg src
  | .mviM d => d
  | .sta _ | .stax _ => s.getReg .a

def ByteStore.len : ByteStore → Nat
  | .movMR _ | .stax _ => 1
  | .mviM _ => 2
  | .sta _ => 3

/-- R220: the condition table. -/
def condTable (f : Flags) : Cond → Prop
  | .nz => f.z = false
  | .z => f.z = true
  | .nc => f.cy = false
  | .c => f.cy = true
  | .po => f.p = false
  | .pe => f.p = true
  | .p => f.s = false
  | .m => f.s = true

/-- `Jcc a16` (R223 to R231). -/
def jumpOn : Cond → Word → Instr
  | .nz, a => .jnz a
  | .z, a => .jz a
  | .nc, a => .jnc a
  | .c, a => .jc a
  | .po, a => .jpo a
  | .pe, a => .jpe a
  | .p, a => .jp a
  | .m, a => .jm a

/-- `Ccc a16` (R233 to R241). -/
def callOn : Cond → Word → Instr
  | .nz, a => .cnz a
  | .z, a => .cz a
  | .nc, a => .cnc a
  | .c, a => .cc a
  | .po, a => .cpo a
  | .pe, a => .cpe a
  | .p, a => .cp a
  | .m, a => .cm a

/-- `Rcc` (R243 to R251). -/
def returnOn : Cond → Instr
  | .nz => .rnz
  | .z => .rz
  | .nc => .rnc
  | .c => .rc
  | .po => .rpo
  | .pe => .rpe
  | .p => .rp
  | .m => .rm

/-- The calls: `CALL`, `Ccc`, `RST n`. -/
inductive CallForm where
  | call (a16 : Word)
  | on (c : Cond) (a16 : Word)
  | rst (n : BitVec 3)

def CallForm.instr : CallForm → Instr
  | .call a => .call a
  | .on c a => callOn c a
  | .rst n => .rst n

def CallForm.Taken (s : State) : CallForm → Prop
  | .on c _ => condTable s.flags c
  | .call _ | .rst _ => True

def CallForm.target : CallForm → Word
  | .call a | .on _ a => a
  | .rst n => BitVec.ofNat 16 (n.toNat * 8)

def CallForm.len : CallForm → Nat
  | .call _ | .on _ _ => 3
  | .rst _ => 1

/-- The returns: `RET`, `Rcc`. -/
inductive ReturnForm where
  | ret
  | on (c : Cond)

def ReturnForm.instr : ReturnForm → Instr
  | .ret => .ret
  | .on c => returnOn c

def ReturnForm.Taken (s : State) : ReturnForm → Prop
  | .ret => True
  | .on c => condTable s.flags c

/-- The pushes: of a pair, and of `A` with the packed flag byte (R272, R273). -/
inductive PushForm where
  | pair (pr : Pair)
  | psw

def PushForm.instr : PushForm → Instr
  | .pair pr => .push pr
  | .psw => .pushPsw

/-- R32: the packed flag byte, bit by bit: `S Z 0 AC 0 P 1 CY`. -/
structure IsPsw (f : Flags) (v : Byte) : Prop where
  b7 : v.getLsbD 7 = f.s
  b6 : v.getLsbD 6 = f.z
  b5 : v.getLsbD 5 = false
  b4 : v.getLsbD 4 = f.ac
  b3 : v.getLsbD 3 = false
  b2 : v.getLsbD 2 = f.p
  b1 : v.getLsbD 1 = true
  b0 : v.getLsbD 0 = f.cy

/-- What a push writes: the high byte and the low byte. The clause of `SP` is that of an ill-formed term,
which no byte decodes to (log 23). -/
def PushForm.Bytes (s : State) (hi lo : Byte) : PushForm → Prop
  | .pair .bc => hi = s.getReg .b ∧ lo = s.getReg .c
  | .pair .de => hi = s.getReg .d ∧ lo = s.getReg .e
  | .pair .hl => hi = s.getReg .h ∧ lo = s.getReg .l
  | .pair .sp => hi.toNat * 256 + lo.toNat = s.sp.toNat
  | .psw => hi = s.getReg .a ∧ IsPsw s.flags lo

/-- The two bytes a push writes are in range, `SP - 1` and `SP - 2` modulo 65536 (R270; the wrap is the
spec's own choice D14, log 15). -/
def CanPush (s : State) : Prop :=
  (s.sp - 1).toNat < s.cfg.memSize ∧ (s.sp - 2).toNat < s.cfg.memSize

/-- The two bytes a pop reads are in range, `SP` and `SP + 1` modulo 65536 (R271; the wrap is the spec's
own choice D14, log 15). -/
def CanPop (s : State) : Prop :=
  s.sp.toNat < s.cfg.memSize ∧ (s.sp + 1).toNat < s.cfg.memSize

/-- The halves of a pair, high and low (R22). -/
def highReg : Pair → Reg8
  | .bc => .b
  | .de => .d
  | .hl | .sp => .h

def lowReg : Pair → Reg8
  | .bc => .c
  | .de => .e
  | .hl | .sp => .l

/-! ## Whole-machine tables -/

/-- `xs` when the condition holds. -/
def accessesIf (taken : Bool) (xs : List (AccessKind × Word)) : List (AccessKind × Word) :=
  if taken then xs else []

/-- The two writes of a push, in the order of R270. -/
def pushAccesses (s : State) : List (AccessKind × Word) := [(.write, s.sp - 1), (.write, s.sp - 2)]

/-- The two reads of a pop, in the order of R271. -/
def popAccesses (s : State) : List (AccessKind × Word) := [(.read, s.sp), (.read, s.sp + 1)]

/-- 60_exceptions.md R332: the data accesses that can fault, in the order of the pseudocode; the
instructions in no data row can fault only at fetch. -/
def dataAccesses (s : State) : Instr → List (AccessKind × Word)
  | .movRM _ | .addM | .adcM | .subM | .sbbM | .anaM | .xraM | .oraM | .cmpM => [(.read, s.hl)]
  | .inrM | .dcrM => [(.read, s.hl)]
  | .movMR _ | .mviM _ => [(.write, s.hl)]
  | .lda a => [(.read, a)]
  | .lhld a => [(.read, a), (.read, a + 1)]
  | .sta a => [(.write, a)]
  | .shld a => [(.write, a), (.write, a + 1)]
  | .ldax pr => [(.read, s.getPair pr)]
  | .stax pr => [(.write, s.getPair pr)]
  | .push _ | .pushPsw | .call _ | .rst _ => pushAccesses s
  | .cnz _ => accessesIf (!s.flags.z) (pushAccesses s)
  | .cz _ => accessesIf s.flags.z (pushAccesses s)
  | .cnc _ => accessesIf (!s.flags.cy) (pushAccesses s)
  | .cc _ => accessesIf s.flags.cy (pushAccesses s)
  | .cpo _ => accessesIf (!s.flags.p) (pushAccesses s)
  | .cpe _ => accessesIf s.flags.p (pushAccesses s)
  | .cp _ => accessesIf (!s.flags.s) (pushAccesses s)
  | .cm _ => accessesIf s.flags.s (pushAccesses s)
  | .pop _ | .popPsw | .ret | .xthl => popAccesses s
  | .rnz => accessesIf (!s.flags.z) (popAccesses s)
  | .rz => accessesIf s.flags.z (popAccesses s)
  | .rnc => accessesIf (!s.flags.cy) (popAccesses s)
  | .rc => accessesIf s.flags.cy (popAccesses s)
  | .rpo => accessesIf (!s.flags.p) (popAccesses s)
  | .rpe => accessesIf s.flags.p (popAccesses s)
  | .rp => accessesIf (!s.flags.s) (popAccesses s)
  | .rm => accessesIf s.flags.s (popAccesses s)
  | .movRR .. | .mviR .. | .lxi .. | .xchg | .addR .. | .adi .. | .adcR .. | .aci .. => []
  | .subR .. | .sui .. | .sbbR .. | .sbi .. | .inrR .. | .dcrR .. | .inx .. | .dcx .. => []
  | .dad .. | .daa | .anaR .. | .ani .. | .xraR .. | .xri .. | .oraR .. | .ori .. => []
  | .cmpR .. | .cpi .. | .rlc | .rrc | .ral | .rar | .cma | .cmc | .stc | .jmp .. => []
  | .jnz .. | .jz .. | .jnc .. | .jc .. | .jpo .. | .jpe .. | .jp .. | .jm .. | .pchl => []
  | .sphl | .nop | .hlt | .ei | .di | .undefLow .. | .undefHigh .. | .out .. | .inp .. => []

/-- The first access at or above `MEMSIZE` (R334). -/
def firstOutOfRange (s : State) (i : Instr) : Option (AccessKind × Word) :=
  (dataAccesses s i).find? fun x => decide (s.cfg.memSize ≤ x.2.toNat)

/-- 10_state.md R41, 20_memory.md R69: the addresses an instruction stores to. -/
def storedAddresses (s : State) : Instr → List Word
  | .movMR _ | .mviM _ | .inrM | .dcrM => [s.hl]
  | .sta a => [a]
  | .shld a => [a, a + 1]
  | .stax pr => [s.getPair pr]
  | .push _ | .pushPsw | .call _ | .rst _ => [s.sp - 1, s.sp - 2]
  | .xthl => [s.sp, s.sp + 1]
  | .cnz _ => if !s.flags.z then [s.sp - 1, s.sp - 2] else []
  | .cz _ => if s.flags.z then [s.sp - 1, s.sp - 2] else []
  | .cnc _ => if !s.flags.cy then [s.sp - 1, s.sp - 2] else []
  | .cc _ => if s.flags.cy then [s.sp - 1, s.sp - 2] else []
  | .cpo _ => if !s.flags.p then [s.sp - 1, s.sp - 2] else []
  | .cpe _ => if s.flags.p then [s.sp - 1, s.sp - 2] else []
  | .cp _ => if !s.flags.s then [s.sp - 1, s.sp - 2] else []
  | .cm _ => if s.flags.s then [s.sp - 1, s.sp - 2] else []
  | .movRR .. | .movRM .. | .mviR .. | .lxi .. | .lda .. | .lhld .. | .ldax .. | .xchg => []
  | .addR .. | .addM | .adi .. | .adcR .. | .adcM | .aci .. | .subR .. | .subM => []
  | .sui .. | .sbbR .. | .sbbM | .sbi .. | .inrR .. | .dcrR .. | .inx .. | .dcx .. => []
  | .dad .. | .daa | .anaR .. | .anaM | .ani .. | .xraR .. | .xraM | .xri .. | .oraR .. => []
  | .oraM | .ori .. | .cmpR .. | .cmpM | .cpi .. | .rlc | .rrc | .ral | .rar | .cma => []
  | .cmc | .stc | .jmp .. | .jnz .. | .jz .. | .jnc .. | .jc .. | .jpo .. | .jpe .. => []
  | .jp .. | .jm .. | .ret | .rnz | .rz | .rnc | .rc | .rpo | .rpe | .rp | .rm | .pchl => []
  | .pop .. | .popPsw | .sphl | .nop | .hlt | .ei | .di | .undefLow .. | .undefHigh .. => []
  | .out .. | .inp .. => []

/-- 10_state.md R30: the flags an instruction may write; an instruction not in the table writes none. -/
def writesFlag : Instr → FlagName → Bool
  | .addR _, _ | .addM, _ | .adi _, _ | .adcR _, _ | .adcM, _ | .aci _, _ => true
  | .subR _, _ | .subM, _ | .sui _, _ | .sbbR _, _ | .sbbM, _ | .sbi _, _ => true
  | .cmpR _, _ | .cmpM, _ | .cpi _, _ => true
  | .anaR _, _ | .anaM, _ | .ani _, _ | .xraR _, _ | .xraM, _ | .xri _, _ => true
  | .oraR _, _ | .oraM, _ | .ori _, _ => true
  | .daa, _ | .popPsw, _ => true
  | .inrR _, n | .inrM, n | .dcrR _, n | .dcrM, n => n != .cy
  | .dad _, n | .rlc, n | .rrc, n | .ral, n | .rar, n | .cmc, n | .stc, n => n == .cy
  | .movRR .., _ | .movRM .., _ | .movMR .., _ | .mviR .., _ | .mviM .., _ | .lxi .., _ => false
  | .lda .., _ | .sta .., _ | .lhld .., _ | .shld .., _ | .ldax .., _ | .stax .., _ => false
  | .xchg, _ | .inx .., _ | .dcx .., _ | .cma, _ | .jmp .., _ | .jnz .., _ | .jz .., _ => false
  | .jnc .., _ | .jc .., _ | .jpo .., _ | .jpe .., _ | .jp .., _ | .jm .., _ => false
  | .call .., _ | .cnz .., _ | .cz .., _ | .cnc .., _ | .cc .., _ | .cpo .., _ => false
  | .cpe .., _ | .cp .., _ | .cm .., _ | .ret, _ | .rnz, _ | .rz, _ | .rnc, _ | .rc, _ => false
  | .rpo, _ | .rpe, _ | .rp, _ | .rm, _ | .rst .., _ | .pchl, _ | .push .., _ => false
  | .pushPsw, _ | .pop .., _ | .xthl, _ | .sphl, _ | .nop, _ | .hlt, _ | .ei, _ => false
  | .di, _ | .undefLow .., _ | .undefHigh .., _ | .out .., _ | .inp .., _ => false

/-- 10_state.md R26: the instructions that write `SP`. -/
def writesSp (s : State) : Instr → Bool
  | .lxi pr _ | .inx pr | .dcx pr => pr == .sp
  | .sphl | .push _ | .pushPsw | .pop _ | .popPsw | .call _ | .ret | .rst _ => true
  | .cnz _ | .rnz => !s.flags.z
  | .cz _ | .rz => s.flags.z
  | .cnc _ | .rnc => !s.flags.cy
  | .cc _ | .rc => s.flags.cy
  | .cpo _ | .rpo => !s.flags.p
  | .cpe _ | .rpe => s.flags.p
  | .cp _ | .rp => !s.flags.s
  | .cm _ | .rm => s.flags.s
  | .movRR .. | .movRM .. | .movMR .. | .mviR .. | .mviM .. | .lda .. | .sta .. => false
  | .lhld .. | .shld .. | .ldax .. | .stax .. | .xchg | .addR .. | .addM | .adi .. => false
  | .adcR .. | .adcM | .aci .. | .subR .. | .subM | .sui .. | .sbbR .. | .sbbM => false
  | .sbi .. | .inrR .. | .inrM | .dcrR .. | .dcrM | .dad .. | .daa | .anaR .. | .anaM => false
  | .ani .. | .xraR .. | .xraM | .xri .. | .oraR .. | .oraM | .ori .. | .cmpR .. => false
  | .cmpM | .cpi .. | .rlc | .rrc | .ral | .rar | .cma | .cmc | .stc | .jmp .. => false
  | .jnz .. | .jz .. | .jnc .. | .jc .. | .jpo .. | .jpe .. | .jp .. | .jm .. | .pchl => false
  | .xthl | .nop | .hlt | .ei | .di | .undefLow .. | .undefHigh .. | .out .. | .inp .. => false

/-- The target if the condition holds. -/
def targetIf (taken : Bool) (a : Word) : Option Word := if taken then some a else none

/-- The word on top of the stack, low byte first (R271). -/
def stackTop (s : State) : Word := joinBytes (s.peek (s.sp + 1)) (s.peek s.sp)

/-- 10_state.md R28: the target of a control transfer that is taken. -/
def takenTarget (s : State) : Instr → Option Word
  | .jmp a | .call a => some a
  | .ret => some (stackTop s)
  | .rst n => some (BitVec.ofNat 16 (n.toNat * 8))
  | .pchl => some s.hl
  | .jnz a | .cnz a => targetIf (!s.flags.z) a
  | .jz a | .cz a => targetIf s.flags.z a
  | .jnc a | .cnc a => targetIf (!s.flags.cy) a
  | .jc a | .cc a => targetIf s.flags.cy a
  | .jpo a | .cpo a => targetIf (!s.flags.p) a
  | .jpe a | .cpe a => targetIf s.flags.p a
  | .jp a | .cp a => targetIf (!s.flags.s) a
  | .jm a | .cm a => targetIf s.flags.s a
  | .rnz => targetIf (!s.flags.z) (stackTop s)
  | .rz => targetIf s.flags.z (stackTop s)
  | .rnc => targetIf (!s.flags.cy) (stackTop s)
  | .rc => targetIf s.flags.cy (stackTop s)
  | .rpo => targetIf (!s.flags.p) (stackTop s)
  | .rpe => targetIf s.flags.p (stackTop s)
  | .rp => targetIf (!s.flags.s) (stackTop s)
  | .rm => targetIf s.flags.s (stackTop s)
  | .movRR .. | .movRM .. | .movMR .. | .mviR .. | .mviM .. | .lxi .. | .lda .. => none
  | .sta .. | .lhld .. | .shld .. | .ldax .. | .stax .. | .xchg | .addR .. | .addM => none
  | .adi .. | .adcR .. | .adcM | .aci .. | .subR .. | .subM | .sui .. | .sbbR .. => none
  | .sbbM | .sbi .. | .inrR .. | .inrM | .dcrR .. | .dcrM | .inx .. | .dcx .. | .dad .. => none
  | .daa | .anaR .. | .anaM | .ani .. | .xraR .. | .xraM | .xri .. | .oraR .. | .oraM => none
  | .ori .. | .cmpR .. | .cmpM | .cpi .. | .rlc | .rrc | .ral | .rar | .cma | .cmc => none
  | .stc | .push .. | .pushPsw | .pop .. | .popPsw | .xthl | .sphl | .nop | .hlt | .ei => none
  | .di | .undefLow .. | .undefHigh .. | .out .. | .inp .. => none

/-- An instruction that reads or writes the port controller's state: `OUT`, and `IN 3` (R35). -/
def touchesPorts : Instr → Bool
  | .out _ => true
  | .inp port => port == 3
  | .movRR .. | .movRM .. | .movMR .. | .mviR .. | .mviM .. | .lxi .. | .lda .. => false
  | .sta .. | .lhld .. | .shld .. | .ldax .. | .stax .. | .xchg | .addR .. | .addM => false
  | .adi .. | .adcR .. | .adcM | .aci .. | .subR .. | .subM | .sui .. | .sbbR .. => false
  | .sbbM | .sbi .. | .inrR .. | .inrM | .dcrR .. | .dcrM | .inx .. | .dcx .. | .dad .. => false
  | .daa | .anaR .. | .anaM | .ani .. | .xraR .. | .xraM | .xri .. | .oraR .. | .oraM => false
  | .ori .. | .cmpR .. | .cmpM | .cpi .. | .rlc | .rrc | .ral | .rar | .cma | .cmc => false
  | .stc | .jmp .. | .jnz .. | .jz .. | .jnc .. | .jc .. | .jpo .. | .jpe .. | .jp .. => false
  | .jm .. | .call .. | .cnz .. | .cz .. | .cnc .. | .cc .. | .cpo .. | .cpe .. => false
  | .cp .. | .cm .. | .ret | .rnz | .rz | .rnc | .rc | .rpo | .rpe | .rp | .rm => false
  | .rst .. | .pchl | .push .. | .pushPsw | .pop .. | .popPsw | .xthl | .sphl | .nop => false
  | .hlt | .ei | .di | .undefLow .. | .undefHigh .. => false

/-- The three bytes at `PC`, the first as `UNDOC_ALIAS` has it read. -/
def bytesAtPc (s : State) : List Byte :=
  [s.opcodeOf (s.peek s.pc), s.peek (s.pc + 1), s.peek (s.pc + 2)]

end Sys2Proof.Spec

open Sys2Proof Sys2Proof.Machine Sys2Proof.Spec

/-! ## Encoding -/

/-- 30_encoding.md R91 to R100: no operand bit of any well-formed instruction is lost between `encode`
and `decode`, whatever bytes follow. -/
def Obligations.DecodeUndoesEncode : Prop :=
  ∀ i : Instr, i.wf = true → ∀ rest : List Byte, decode (encode i ++ rest) = .ok (i, rest)

/-- 30_encoding.md R90, R103, R105: every opcode byte decodes to one well-formed instruction, whose
length depends on that byte alone, and the instruction's encoding is exactly the bytes read. -/
def Obligations.EveryOpcodeByteDecodesAndEncodesBack : Prop :=
  ∀ (b0 b1 b2 : Byte) (rest : List Byte),
    (decodeOp b0 b1 b2).wf = true ∧
    (decodeOp b0 b1 b2).format = opcodeFormat b0 ∧
    encode (decodeOp b0 b1 b2) = [b0, b1, b2].take (opcodeFormat b0).length ∧
    decode (b0 :: b1 :: b2 :: rest) =
      .ok (decodeOp b0 b1 b2, (b0 :: b1 :: b2 :: rest).drop (opcodeFormat b0).length)

/-- 30_encoding.md R91, R97 to R101: words written out from the spec's encodings, one or more of every
quadrant; and of the 256 opcode bytes 212 begin an instruction of one byte, 18 of two, 26 of three. -/
def Obligations.SpecWordsDecode : Prop :=
  decode [0b01111000] = .ok (.movRR .a .b, []) ∧
  decode [0b01110110] = .ok (.hlt, []) ∧
  decode [0x21, 0x34, 0x12] = .ok (.lxi .hl 0x1234, []) ∧
  decode [0b10000110] = .ok (.addM, []) ∧
  decode [0b11111110, 0x40] = .ok (.cpi 0x40, []) ∧
  decode [0xC2, 0x05, 0x00] = .ok (.jnz 0x0005, []) ∧
  decode [0b11010111] = .ok (.rst 2, []) ∧
  decode [0xF5] = .ok (.pushPsw, []) ∧
  decode [0xD3, 0x04] = .ok (.out 4, []) ∧
  decode [0xCB, 0x00] = .ok (.undefHigh .cb, [0x00]) ∧
  ((List.range 256).countP fun n => opcodeFormat (BitVec.ofNat 8 n) == .f1) = 212 ∧
  ((List.range 256).countP fun n => opcodeFormat (BitVec.ofNat 8 n) == .f2) = 18 ∧
  ((List.range 256).countP fun n => opcodeFormat (BitVec.ofNat 8 n) == .f3) = 26

/-! ## The step -/

/-- 00_scope.md R11, 20_memory.md R64: when the machine runs, the bytes at `PC` decode to `i` and the
bytes of `i` are in range, a step is the meaning of `i`. Under `UNDOC_ALIAS = nop` the first byte is
decoded as it stands. -/
def Obligations.StepRunsTheDecodedInstruction : Prop :=
  (∀ (s : State) (i : Instr) (rest : List Byte), s.status = .running →
    decode (bytesAtPc s) = .ok (i, rest) →
    (∀ k, k < i.length → (s.pc + BitVec.ofNat 16 k).toNat < s.cfg.memSize) →
    step s = exec i s) ∧
  (∀ (s : State) (b0 : Byte), s.cfg.undocAlias = .nop → s.opcodeOf b0 = b0)

/-- 20_memory.md R64, 60_exceptions.md R332, R334, and the spec's own choices D12, D20 (log 13, log 14):
the first byte of the instruction at `PC` that is out of range ends the step with a fetch fault at that
address, whatever the instruction and its condition are. -/
def Obligations.FetchFaultAtFirstMissingByte : Prop :=
  ∀ (s : State) (k : Nat), s.status = .running →
    k < (opcodeFormat (s.opcodeOf (s.peek s.pc))).length →
    (∀ j, j < k → (s.pc + BitVec.ofNat 16 j).toNat < s.cfg.memSize) →
    s.cfg.memSize ≤ (s.pc + BitVec.ofNat 16 k).toNat →
    step s = .fault (.outOfRange .fetch (s.pc + BitVec.ofNat 16 k))

/-- 45_machine_control.md R296, R331 and the spec's own choices D8, D27; that a halted step is a Lean
`next` and that a `Faulted` one derives its fault from the unchanged state are the model's (log 1, log 3).
A machine that is not running changes nothing and `is_done()` is true in it; a halted one answers `Halted`
again, and a `Faulted` one answers the fault that the same state raises as `Running`. -/
def Obligations.StoppedMachineDoesNothing : Prop :=
  (∀ s : State, s.status = .halted →
    step s = .next s ∧ hostStep s = (s, .halted) ∧ s.isDone = true) ∧
  (∀ s : State, s.status = .faulted →
    (hostStep s).1 = s ∧ (∀ t, step s ≠ .next t) ∧ s.isDone = true ∧
    ∀ f, step { s with status := .running } = .fault f →
      step s = .fault f ∧ hostStep s = (s, .fault f))

/-- 60_exceptions.md R331, R335, R336 and the spec's own choices D6, D7, D8 (log 2, log 3, log 13): a step
that faults leaves everything but `status` as it was, keeps neither kind nor address in the machine,
reports them to the host, and every further step reports the same fault and changes nothing. -/
def Obligations.FaultEntryChangesOnlyStatus : Prop :=
  ∀ (s : State) (k : AccessKind) (a : Word), step s = .fault (.outOfRange k a) →
    hostStep s = ({ s with status := .faulted }, .fault (.outOfRange k a)) ∧
    hostStep { s with status := .faulted } =
      ({ s with status := .faulted }, .fault (.outOfRange k a))

/-- 60_exceptions.md R340 (its `Faulted` disjunct is the spec's own addition D8, log 3): `is_done()`. -/
def Obligations.IsDoneWhenStoppedOrPastTheEnd : Prop :=
  ∀ s : State, s.isDone = true ↔ (s.status ≠ .running ∨ s.cfg.memSize ≤ s.pc.toNat)

/-- 45_machine_control.md R295 (decision D9, log 9, log 10): with `UNDOC_ALIAS = chip` the byte `CB` at
`PC` steps as `JMP`, `D9` as `RET`, `DD`, `ED` and `FD` as `CALL`, with the operand bytes that follow;
with `nop` all five step as a one-byte `NOP`. -/
def Obligations.UndocAliasChoosesTheFiveBytes : Prop :=
  ∀ s : State, s.status = .running → s.pc.toNat < s.cfg.memSize →
    (s.cfg.undocAlias = .chip →
      (s.peek s.pc = 0xD9 → step s = exec .ret s) ∧
      ((s.pc + 1).toNat < s.cfg.memSize → (s.pc + 2).toNat < s.cfg.memSize →
        (s.peek s.pc = 0xCB →
          step s = exec (.jmp (joinBytes (s.peek (s.pc + 2)) (s.peek (s.pc + 1)))) s) ∧
        (s.peek s.pc = 0xDD ∨ s.peek s.pc = 0xED ∨ s.peek s.pc = 0xFD →
          step s = exec (.call (joinBytes (s.peek (s.pc + 2)) (s.peek (s.pc + 1)))) s))) ∧
    (s.cfg.undocAlias = .nop →
      s.peek s.pc ∈ ([0xCB, 0xD9, 0xDD, 0xED, 0xFD] : List Byte) →
      step s = .next { s with pc := s.pc + 1 })

/-- 20_memory.md R74 (program order is the spec's own choice D24, log 21; that the addresses wrap D14,
log 15): the instruction after `STA a` is decoded from memory as it stands with the byte stored in its
place, whether that byte is the next opcode, an operand of it, or neither, for instructions of every
length and for both values of `UNDOC_ALIAS`. -/
def Obligations.StoreIsSeenByTheNextFetch : Prop :=
  ∀ (s t : State) (a : Word), s.mem.wf = true → s.status = .running →
    exec (.sta a) s = .next t →
    let byteAt (k : Nat) : Byte :=
      if t.pc + BitVec.ofNat 16 k = a then s.getReg .a else s.peek (t.pc + BitVec.ofNat 16 k)
    let op := s.opcodeOf (byteAt 0)
    (∀ k, k < (opcodeFormat op).length → (t.pc + BitVec.ofNat 16 k).toNat < s.cfg.memSize) →
    step t = exec (decodeOp op (byteAt 1) (byteAt 2)) t

/-! ## Invariants -/

/-- 10_state.md R36, 20_memory.md R63, 45_machine_control.md R296: the invariant is legal parameters,
memory in canonical form below `MEMSIZE`, and `Faulted` only where the unchanged state accounts for the
fault (that last part is the model's form of R296 and R331, log 3). From every state that meets it a step
gives such a state, the host's step too when it takes a fault, and no step is refused. -/
def Obligations.StepKeepsInvariant : Prop :=
  ∀ s : State, s.Inv →
    (∀ t, step s = .next t → t.Inv) ∧ (hostStep s).1.Inv ∧ ∀ r, step s ≠ .refused r

/-- 10_state.md R38: the reset state meets the invariant, runs, fetches at `RESET_PC` with all of its
memory 00, and has every register, `SP`, every flag, `INTE`, the shift bytes and the offset 0 (the
parameters and these values are the model's and the spec's own choices D2 to D5, log 4 to log 8). -/
def Obligations.ResetMeetsInvariant : Prop :=
  State.reset.Inv ∧ State.reset.status = .running ∧ State.reset.pc = 0 ∧
    (∀ a : Nat, State.reset.mem.read a = 0x00) ∧ (∀ r : Reg8, State.reset.getReg r = 0) ∧
    State.reset.sp = 0 ∧ (∀ n : FlagName, State.reset.flags.get n = false) ∧
    State.reset.inte = false ∧ State.reset.io.shift0 = 0 ∧ State.reset.io.shift1 = 0 ∧
    State.reset.io.offset = 0

/-- 70_reset_and_hazards.md R360, R362 and the spec's own choices D1, D3 to D5 (log 4 to log 6): `load`
answers a machine exactly when `MEMSIZE` is 1 to 65536 and the image has that length; the machine meets
the invariant, runs at `RESET_PC`, holds the image, and has every other register at 0. -/
def Obligations.LoadBuildsTheResetState : Prop :=
  ∀ (image : List Byte) (cfg : Config) (resetPc : Word),
    ((∃ s, load image cfg resetPc = .ok s) ↔ (cfg.Legal ∧ image.length = cfg.memSize)) ∧
    ∀ s, load image cfg resetPc = .ok s →
      s.Inv ∧ s.pc = resetPc ∧ s.status = .running ∧ s.cfg = cfg ∧
      (∀ i, i < image.length → s.mem.read i = image.getD i 0) ∧
      (∀ r, s.getReg r = 0) ∧ s.sp = 0 ∧ (∀ n, s.flags.get n = false) ∧ s.inte = false ∧
      s.io.shift0 = 0 ∧ s.io.shift1 = 0 ∧ s.io.offset = 0

/-- 00_scope.md R7, 10_state.md R34: no step changes the parameters, and a step that answers a next state
from a running machine leaves it running or halted, halted only by `HLT`. -/
def Obligations.StepKeepsParametersAndOnlyHltHalts : Prop :=
  ∀ s t : State, step s = .next t →
    t.cfg = s.cfg ∧
    (s.status = .running →
      (t.status = .running ∨ t.status = .halted) ∧
      (t.status = .halted ↔ s.opcodeOf (s.peek s.pc) = 0x76))

/-! ## Whole-machine rules -/

/-- 60_exceptions.md R332: every instruction whose data accesses are all below `MEMSIZE` completes, and
no other does. -/
def Obligations.InstructionCompletesExactlyWhenInRange : Prop :=
  ∀ (i : Instr) (s : State),
    (∃ t, exec i s = .next t) ↔ ∀ x ∈ dataAccesses s i, x.2.toNat < s.cfg.memSize

/-- 60_exceptions.md R330, R332, R334 and the spec's own choice D20 (log 13): the fault an instruction
raises is `OutOfRange` for the first of its data accesses, in pseudocode order, that is at or above
`MEMSIZE`, and no instruction is refused. -/
def Obligations.FirstOutOfRangeAccessIsReported : Prop :=
  ∀ (i : Instr) (s : State),
    (∀ f : Fault, exec i s = .fault f ↔
      ∃ k a, firstOutOfRange s i = some (k, a) ∧ f = .outOfRange k a) ∧
    ∀ r : Refusal, exec i s ≠ .refused r

/-- 10_state.md R30: an instruction leaves every flag the table does not list for it. That `INR` and `DCR`
keep `CY` is the spec's own choice D25 (log 17), and those rows and the list of non-writers are its general
knowledge (G4, log 22). -/
def Obligations.OnlyListedInstructionsWriteFlags : Prop :=
  ∀ (i : Instr) (s t : State) (n : FlagName), exec i s = .next t → writesFlag i n = false →
    t.flags.get n = s.flags.get n

/-- 10_state.md R41, 20_memory.md R63: an instruction leaves every byte of memory but those its rule
stores to. -/
def Obligations.OnlyStoredBytesChange : Prop :=
  ∀ (i : Instr) (s t : State), exec i s = .next t → SameMemOutside (storedAddresses s i) s t

/-- 10_state.md R26: only the listed instructions write `SP`. -/
def Obligations.OnlyListedInstructionsWriteSp : Prop :=
  ∀ (i : Instr) (s t : State), exec i s = .next t → writesSp s i = false → t.sp = s.sp

/-- 10_state.md R28: `PC` is the target exactly for a control transfer that is taken and `PC + len`
modulo 65536 in every other case. That `HLT` too advances `PC` is the spec's own choice D13 (log 16). -/
def Obligations.PcIsTargetOrNext : Prop :=
  ∀ (i : Instr) (s t : State), exec i s = .next t →
    t.pc = (takenTarget s i).getD (s.pc + BitVec.ofNat 16 i.length)

/-- 10_state.md R33, R34, R35: `INTE` is written only by `EI` and `DI`, `status` only by `HLT`, the port
controller only by `OUT 2` and `OUT 4`. -/
def Obligations.ControlStateWriters : Prop :=
  ∀ (i : Instr) (s t : State), exec i s = .next t →
    (i ≠ .ei → i ≠ .di → t.inte = s.inte) ∧
    (i ≠ .hlt → t.status = s.status) ∧
    (i ≠ .out 2 → i ≠ .out 4 → t.io = s.io)

/-- 10_state.md R33: nothing reads `INTE`. Two machines that differ in it alone step to machines that
differ at most in it, and fault alike. -/
def Obligations.InteIsReadByNothing : Prop :=
  ∀ (s : State) (b : Bool),
    (∀ t, step s = .next t →
      ∃ u, step { s with inte := b } = .next u ∧ { u with inte := t.inte } = t) ∧
    (∀ f, step s = .fault f → step { s with inte := b } = .fault f)

/-- 10_state.md R35: the port controller's state is private: an instruction that is neither `OUT` nor
`IN 3` does the same whatever that state is. -/
def Obligations.PortStateIsPrivate : Prop :=
  ∀ (i : Instr) (s : State) (io : IoPorts), touchesPorts i = false →
    (∀ t, exec i s = .next t → exec i { s with io := io } = .next { t with io := io }) ∧
    (∀ f, exec i s = .fault f → exec i { s with io := io } = .fault f)

/-- 20_memory.md R77 (that addresses wrap before they are compared is the spec's own choice D14, log 15;
that a halted step is a `next` the model's, log 1): `MEMSIZE = 65536` and not `Faulted` is an invariant
that every step keeps, and every step from it answers a next state; so a run of any length from such a
state goes on. -/
def Obligations.FullMemoryRunsNeverFault : Prop :=
  ∀ s : State, s.cfg.memSize = 65536 → s.status ≠ .faulted →
    (∃ t, step s = .next t ∧ t.cfg.memSize = 65536 ∧ t.status ≠ .faulted) ∧ SafeRun s

/-- 20_memory.md R62, R63: a read at or above `MEMSIZE` raises `Fault(OutOfRange, read, addr)` and
otherwise gives the byte and changes nothing; a write at or above `MEMSIZE` raises
`Fault(OutOfRange, write, addr)` and otherwise writes the byte and no other. -/
def Obligations.OneByteAccesses : Prop :=
  ∀ (s : State) (a : Word) (v : Byte),
    (s.cfg.memSize ≤ a.toNat →
      (∀ k, s.load8 a k = .fault (.outOfRange .read a)) ∧
      (∀ k, s.store8 a v k = .fault (.outOfRange .write a))) ∧
    (a.toNat < s.cfg.memSize →
      (∀ k, s.load8 a k = k (s.peek a)) ∧
      (s.mem.wf = true → ∃ t, (∀ k, s.store8 a v k = k t) ∧ t = { s with mem := t.mem } ∧
        t.peek a = v ∧ ∀ b, b ≠ a → t.peek b = s.peek b))

/-! ## The ALU's functions -/

/-- 41_arithmetic.md R150: `Parity8` is 1 exactly when the number of 1 bits is even, which is the
exclusive or of 1 and the eight bits. -/
def Obligations.ParityIsOneForAnEvenCount : Prop :=
  (∀ v : Byte, parity8 v = evenParity v ∧ (parity8 v = true ↔ onesCount v % 2 = 0)) ∧
    parity8 0x00 = true ∧ parity8 0x01 = false ∧ parity8 0xFF = true

/-- 41_arithmetic.md R151: `SetZSP` writes `Z`, `S`, `P` from the 8-bit result and nothing else. -/
def Obligations.SetZspWritesThreeFlags : Prop :=
  ∀ (res : Byte) (f : Flags),
    ZSP res (setZSP res f) ∧ (setZSP res f).cy = f.cy ∧ (setZSP res f).ac = f.ac

/-- 41_arithmetic.md R152: `Add8`. -/
def Obligations.AddEightBits : Prop :=
  ∀ (a b : Byte) (cin : Bool), IsSum a b cin (add8 a b cin).res (add8 a b cin).flags

/-! ## Data transfer -/

/-- 40_data_transfer.md R120, R121, R124: `MOV r1,r2` and `MVI r,d8`. -/
def Obligations.MoveToRegister : Prop :=
  ∀ (s : State) (dst : Reg8),
    (∀ src, ∃ t, exec (.movRR dst src) s = .next t ∧ t.getReg dst = s.getReg src ∧
      t.flags = s.flags ∧ RegOnly [dst] 1 s t) ∧
    (∀ d8, ∃ t, exec (.mviR dst d8) s = .next t ∧ t.getReg dst = d8 ∧
      t.flags = s.flags ∧ RegOnly [dst] 2 s t)

/-- 40_data_transfer.md R120, R126: `LXI`: the third byte to the high register, the second to the low
one; or the value to `SP`. -/
def Obligations.LoadPairImmediate : Prop :=
  ∀ (s : State) (pr : Pair) (d16 : Word),
    ∃ t, exec (.lxi pr d16) s = .next t ∧ t.getPair pr = d16 ∧
      (pr ≠ .sp → (t.getReg (highReg pr)).toNat = d16.toNat / 256 ∧
        (t.getReg (lowReg pr)).toNat = d16.toNat % 256) ∧
      t.flags = s.flags ∧ PairOnly pr 3 s t

/-- 40_data_transfer.md R120, R122, R127, R131: `MOV r,M`, `LDA`, `LDAX` read the byte at an address below
`MEMSIZE` into one register. -/
def Obligations.LoadByte : Prop :=
  ∀ (s : State) (ld : ByteLoad), (ld.addr s).toNat < s.cfg.memSize →
    ∃ t, exec ld.instr s = .next t ∧ t.getReg ld.dst = s.peek (ld.addr s) ∧
      t.flags = s.flags ∧ RegOnly [ld.dst] ld.len s t

/-- 40_data_transfer.md R120, R123, R125, R128, R132: `MOV M,r`, `MVI M`, `STA`, `STAX` write one byte at an
address below `MEMSIZE` and no other. -/
def Obligations.StoreByte : Prop :=
  ∀ (s : State) (st : ByteStore), s.mem.wf = true → (st.addr s).toNat < s.cfg.memSize →
    ∃ t, exec st.instr s = .next t ∧ t.peek (st.addr s) = st.value s ∧
      StoreOnly [st.addr s] st.len s t

/-- 40_data_transfer.md R120, R129, R130 (that `a16 + 1` wraps modulo 65536 is the spec's own choice D14,
log 15): `LHLD` and `SHLD` move `L` from and to `a16`, `H` from and to `a16 + 1`. -/
def Obligations.TransferHlDirect : Prop :=
  ∀ (s : State) (a : Word), a.toNat < s.cfg.memSize → (a + 1).toNat < s.cfg.memSize →
    (∃ t, exec (.lhld a) s = .next t ∧ t.getReg .l = s.peek a ∧ t.getReg .h = s.peek (a + 1) ∧
      t.flags = s.flags ∧ RegOnly [.h, .l] 3 s t) ∧
    (s.mem.wf = true → ∃ t, exec (.shld a) s = .next t ∧ t.peek a = s.getReg .l ∧
      t.peek (a + 1) = s.getReg .h ∧ StoreOnly [a, a + 1] 3 s t)

/-- 40_data_transfer.md R133 (operation and byte are the spec's general knowledge, G2): `XCHG`. -/
def Obligations.ExchangePairs : Prop :=
  encode .xchg = [0xEB] ∧ ∀ s : State, ∃ t, exec .xchg s = .next t ∧
    t.getReg .h = s.getReg .d ∧ t.getReg .l = s.getReg .e ∧
    t.getReg .d = s.getReg .h ∧ t.getReg .e = s.getReg .l ∧
    t.flags = s.flags ∧ RegOnly [.d, .e, .h, .l] 1 s t

/-! ## Arithmetic -/

/-- 41_arithmetic.md R152, R154 to R159, R175: `ADD`, `ADI` and, with the incoming `CY`, `ADC`, `ACI`. -/
def Obligations.AddToAccumulator : Prop :=
  ∀ (s : State) (src : AluSrc), src.Ready s →
    (∃ t, exec (addOf src) s = .next t ∧
      IsSum (s.getReg .a) (src.value s) false (t.getReg .a) t.flags ∧ RegOnly [.a] src.len s t) ∧
    (∃ t, exec (adcOf src) s = .next t ∧
      IsSum (s.getReg .a) (src.value s) s.flags.cy (t.getReg .a) t.flags ∧ RegOnly [.a] src.len s t)

/-- 41_arithmetic.md R153, R160 to R165, R175, with the spec's own choice D10 for `AC` (log 11): `SUB`,
`SUI` and, with the incoming borrow, `SBB`, `SBI`. -/
def Obligations.SubtractFromAccumulator : Prop :=
  ∀ (s : State) (src : AluSrc), src.Ready s →
    (∃ t, exec (subOf src) s = .next t ∧
      IsDifference (s.getReg .a) (src.value s) false (t.getReg .a) t.flags ∧
      RegOnly [.a] src.len s t) ∧
    (∃ t, exec (sbbOf src) s = .next t ∧
      IsDifference (s.getReg .a) (src.value s) s.flags.cy (t.getReg .a) t.flags ∧
      RegOnly [.a] src.len s t)

/-- 42_logical.md R200 to R202, R210, with the spec's own choice D10 for `AC` (log 11): `CMP`, `CPI` set
the flags of `A - operand` and keep every register, `A` included. -/
def Obligations.CompareSetsFlagsOnly : Prop :=
  ∀ (s : State) (src : AluSrc), src.Ready s →
    ∃ t res, exec (cmpOf src) s = .next t ∧
      IsDifference (s.getReg .a) (src.value s) false res t.flags ∧ RegOnly [] src.len s t

/-- 41_arithmetic.md R166, R168, R175, with the spec's own choices D10, D25 (log 11, log 17): `INR r`,
`DCR r`: `CY` is kept. -/
def Obligations.StepRegisterByOne : Prop :=
  ∀ (s : State) (dst : Reg8),
    (∃ t, exec (.inrR dst) s = .next t ∧
      (t.getReg dst).toNat = ((s.getReg dst).toNat + 1) % 256 ∧
      ZSP (t.getReg dst) t.flags ∧ t.flags.ac = decide ((s.getReg dst).toNat % 16 = 15) ∧
      t.flags.cy = s.flags.cy ∧ RegOnly [dst] 1 s t) ∧
    (∃ t, exec (.dcrR dst) s = .next t ∧
      (t.getReg dst).toNat = ((s.getReg dst).toNat + 255) % 256 ∧
      ZSP (t.getReg dst) t.flags ∧ t.flags.ac = decide ((s.getReg dst).toNat % 16 ≠ 0) ∧
      t.flags.cy = s.flags.cy ∧ RegOnly [dst] 1 s t)

/-- 41_arithmetic.md R167, R169, R175, with the spec's own choices D10, D25 (log 11, log 17): `INR M`,
`DCR M` read and write the byte at `HL`; `CY` is kept. -/
def Obligations.StepMemoryByOne : Prop :=
  ∀ s : State, s.mem.wf = true → s.hl.toNat < s.cfg.memSize →
    (∃ t, exec .inrM s = .next t ∧
      (t.peek s.hl).toNat = ((s.peek s.hl).toNat + 1) % 256 ∧
      ZSP (t.peek s.hl) t.flags ∧ t.flags.ac = decide ((s.peek s.hl).toNat % 16 = 15) ∧
      t.flags.cy = s.flags.cy ∧ StoreOnly [s.hl] 1 s { t with flags := s.flags }) ∧
    (∃ t, exec .dcrM s = .next t ∧
      (t.peek s.hl).toNat = ((s.peek s.hl).toNat + 255) % 256 ∧
      ZSP (t.peek s.hl) t.flags ∧ t.flags.ac = decide ((s.peek s.hl).toNat % 16 ≠ 0) ∧
      t.flags.cy = s.flags.cy ∧ StoreOnly [s.hl] 1 s { t with flags := s.flags })

/-- 41_arithmetic.md R170, R171, R175: `INX`, `DCX` on a pair or `SP`, modulo 65536, with no flag. -/
def Obligations.StepPairByOne : Prop :=
  ∀ (s : State) (pr : Pair),
    (∃ t, exec (.inx pr) s = .next t ∧
      (t.getPair pr).toNat = ((s.getPair pr).toNat + 1) % 65536 ∧
      t.flags = s.flags ∧ PairOnly pr 1 s t) ∧
    (∃ t, exec (.dcx pr) s = .next t ∧
      (t.getPair pr).toNat = ((s.getPair pr).toNat + 65535) % 65536 ∧
      t.flags = s.flags ∧ PairOnly pr 1 s t)

/-- 41_arithmetic.md R172, R175: `DAD`: `HL` is the sum modulo 65536, `CY` the carry out of bit 15, the
other flags kept. -/
def Obligations.DoubleAdd : Prop :=
  ∀ (s : State) (pr : Pair),
    ∃ t, exec (.dad pr) s = .next t ∧
      t.hl.toNat = (s.hl.toNat + (s.getPair pr).toNat) % 65536 ∧
      t.flags = { s.flags with cy := decide (s.hl.toNat + (s.getPair pr).toNat > 65535) } ∧
      RegOnly [.h, .l] 1 s t

/-- 41_arithmetic.md R173, with the spec's own choice D11 (log 12): `DAA` is the one-pass form the rule
gives: 6 for a low nibble above 9 or `AC`, 0x60 for a byte above 0x99 or `CY`. -/
def Obligations.DecimalAdjustIsTheOnePassForm : Prop :=
  ∀ s : State,
    let a := (s.getReg .a).toNat
    let low := if a % 16 > 9 ∨ s.flags.ac = true then 6 else 0
    let high := if a > 0x99 ∨ s.flags.cy = true then 0x60 else 0
    ∃ t, exec .daa s = .next t ∧
      (t.getReg .a).toNat = (a + low + high) % 256 ∧
      t.flags.cy = decide (high = 0x60) ∧ t.flags.ac = decide (a % 16 + low > 15) ∧
      ZSP (t.getReg .a) t.flags ∧ RegOnly [.a] 1 s t

/-! ## Logic and rotates -/

/-- 42_logical.md R190 to R199, R210: `ANA ANI`, `XRA XRI`, `ORA ORI`: the bitwise result, with `CY` and
`AC` cleared. -/
def Obligations.LogicOnAccumulator : Prop :=
  ∀ (s : State) (src : AluSrc), src.Ready s →
    (∃ t, exec (anaOf src) s = .next t ∧ t.getReg .a = s.getReg .a &&& src.value s ∧
      IsLogic (t.getReg .a) t.flags ∧ RegOnly [.a] src.len s t) ∧
    (∃ t, exec (xraOf src) s = .next t ∧ t.getReg .a = s.getReg .a ^^^ src.value s ∧
      IsLogic (t.getReg .a) t.flags ∧ RegOnly [.a] src.len s t) ∧
    (∃ t, exec (oraOf src) s = .next t ∧ t.getReg .a = s.getReg .a ||| src.value s ∧
      IsLogic (t.getReg .a) t.flags ∧ RegOnly [.a] src.len s t)

/-- 42_logical.md R203 to R206 (the bit movements and bytes are the spec's general knowledge, G2): the
rotates, bit by bit: 8-bit rotates of `A` whose rotated-out bit also goes to `CY`, and 9-bit rotates of
`CY:A`; no other flag. -/
def Obligations.RotatesMoveEveryBit : Prop :=
  encode .rlc = [0x07] ∧ encode .rrc = [0x0F] ∧ encode .ral = [0x17] ∧ encode .rar = [0x1F] ∧
  ∀ s : State,
    (∃ t, exec .rlc s = .next t ∧
      (∀ i, i < 8 → (t.getReg .a).getLsbD i = (s.getReg .a).getLsbD ((i + 7) % 8)) ∧
      t.flags = { s.flags with cy := (s.getReg .a).getLsbD 7 } ∧ RegOnly [.a] 1 s t) ∧
    (∃ t, exec .rrc s = .next t ∧
      (∀ i, i < 8 → (t.getReg .a).getLsbD i = (s.getReg .a).getLsbD ((i + 1) % 8)) ∧
      t.flags = { s.flags with cy := (s.getReg .a).getLsbD 0 } ∧ RegOnly [.a] 1 s t) ∧
    (∃ t, exec .ral s = .next t ∧
      (∀ i, i < 8 → (t.getReg .a).getLsbD i =
        if i = 0 then s.flags.cy else (s.getReg .a).getLsbD (i - 1)) ∧
      t.flags = { s.flags with cy := (s.getReg .a).getLsbD 7 } ∧ RegOnly [.a] 1 s t) ∧
    (∃ t, exec .rar s = .next t ∧
      (∀ i, i < 8 → (t.getReg .a).getLsbD i =
        if i = 7 then s.flags.cy else (s.getReg .a).getLsbD (i + 1)) ∧
      t.flags = { s.flags with cy := (s.getReg .a).getLsbD 0 } ∧ RegOnly [.a] 1 s t)

/-- 42_logical.md R207 to R209 (the spec's general knowledge, G2): `CMA` complements every bit of `A` and
no flag; `CMC` complements and `STC` sets `CY`, and no register changes. -/
def Obligations.ComplementAndCarry : Prop :=
  encode .cma = [0x2F] ∧ encode .cmc = [0x3F] ∧ encode .stc = [0x37] ∧
  ∀ s : State,
    (∃ t, exec .cma s = .next t ∧ (t.getReg .a).toNat = 255 - (s.getReg .a).toNat ∧
      t.flags = s.flags ∧ RegOnly [.a] 1 s t) ∧
    (∃ t, exec .cmc s = .next t ∧ t.flags = { s.flags with cy := !s.flags.cy } ∧
      RegOnly [] 1 s t) ∧
    (∃ t, exec .stc s = .next t ∧ t.flags = { s.flags with cy := true } ∧ RegOnly [] 1 s t)

/-! ## Control transfer -/

/-- 43_control_flow.md R220 to R231, R253: `JMP`, `PCHL` and a `Jcc` whose condition the table makes true
set `PC` to the target exactly; a `Jcc` whose condition is false goes past its three bytes. Nothing else
changes, and no target faults. -/
def Obligations.JumpsSetPcOnly : Prop :=
  ∀ (s : State) (a : Word),
    exec (.jmp a) s = .next { s with pc := a } ∧
    exec .pchl s = .next { s with pc := s.hl } ∧
    ∀ c : Cond,
      (condTable s.flags c → exec (jumpOn c a) s = .next { s with pc := a }) ∧
      (¬ condTable s.flags c → exec (jumpOn c a) s = .next { s with pc := s.pc + 3 })

/-- 43_control_flow.md R220, R221, R232 to R241, R252, 44_stack.md R270: a taken call pushes the address of
the byte after it, high byte at `SP - 1`, low byte at `SP - 2`, and goes to its target. -/
def Obligations.TakenCallPushesReturnAddress : Prop :=
  ∀ (s : State) (c : CallForm), s.mem.wf = true → c.Taken s → CanPush s →
    ∃ t, exec c.instr s = .next t ∧ t.pc = c.target ∧ t.sp = s.sp - 2 ∧
      (t.peek (s.sp - 1)).toNat = (s.pc + BitVec.ofNat 16 c.len).toNat / 256 ∧
      (t.peek (s.sp - 2)).toNat = (s.pc + BitVec.ofNat 16 c.len).toNat % 256 ∧
      SameMemOutside [s.sp - 1, s.sp - 2] s t ∧ SameRegsBut [] s t ∧ t.flags = s.flags ∧
      SameControl s t

/-- 43_control_flow.md R220, R221, R242 to R251, 44_stack.md R271: a taken return sets `PC` to the word on
top of the stack, low byte first, and adds 2 to `SP`. -/
def Obligations.TakenReturnPopsPc : Prop :=
  ∀ (s : State) (r : ReturnForm), r.Taken s → CanPop s →
    ∃ t, exec r.instr s = .next t ∧
      t.pc.toNat = (s.peek (s.sp + 1)).toNat * 256 + (s.peek s.sp).toNat ∧
      t.sp = s.sp + 2 ∧ SameMem s t ∧ SameRegsBut [] s t ∧ t.flags = s.flags ∧ SameControl s t

/-- 43_control_flow.md R221, R233, R243: a call or return whose condition is false goes past its bytes
and changes nothing else, whatever `SP` is. -/
def Obligations.NotTakenCallsAndReturnsOnlyAdvance : Prop :=
  ∀ (s : State) (c : Cond), ¬ condTable s.flags c →
    (∀ a, exec (callOn c a) s = .next { s with pc := s.pc + 3 }) ∧
    exec (returnOn c) s = .next { s with pc := s.pc + 1 }

/-! ## Stack -/

/-- 44_stack.md R270, R272, R273, 10_state.md R32 (that `A` is the high byte of `PSW` is the spec's own
choice D29, log 19): `PUSH`. R272 has no `PUSH SP`: what is said of that ill-formed term, which no byte
decodes to, is the model's (log 23). -/
def Obligations.PushStoresHighByteAbove : Prop :=
  ∀ (s : State) (p : PushForm), s.mem.wf = true → CanPush s →
    ∃ t, exec p.instr s = .next t ∧ p.Bytes s (t.peek (s.sp - 1)) (t.peek (s.sp - 2)) ∧
      t.sp = s.sp - 2 ∧ t.pc = s.pc + 1 ∧ SameMemOutside [s.sp - 1, s.sp - 2] s t ∧
      SameRegsBut [] s t ∧ t.flags = s.flags ∧ SameControl s t

/-- 44_stack.md R271, R274: `POP` of a register pair. -/
def Obligations.PopLoadsPair : Prop :=
  ∀ (s : State) (pr : Pair), pr.isStackable = true → CanPop s →
    ∃ t, exec (.pop pr) s = .next t ∧
      t.getReg (lowReg pr) = s.peek s.sp ∧ t.getReg (highReg pr) = s.peek (s.sp + 1) ∧
      t.sp = s.sp + 2 ∧ t.pc = s.pc + 1 ∧ SameMem s t ∧
      SameRegsBut (pairHalves pr) s t ∧ t.flags = s.flags ∧ SameControl s t

/-- 44_stack.md R271, R275 (that `A` is the high byte is the spec's own choice D29, and that bits 1, 3, 5
are discarded D18, log 19): `POP PSW`. -/
def Obligations.PopPswLoadsAccumulatorAndFlags : Prop :=
  ∀ s : State, CanPop s →
    ∃ t, exec .popPsw s = .next t ∧ t.getReg .a = s.peek (s.sp + 1) ∧
      t.flags = { cy := (s.peek s.sp).getLsbD 0, p := (s.peek s.sp).getLsbD 2,
                  ac := (s.peek s.sp).getLsbD 4, z := (s.peek s.sp).getLsbD 6,
                  s := (s.peek s.sp).getLsbD 7 } ∧
      t.sp = s.sp + 2 ∧ t.pc = s.pc + 1 ∧ SameMem s t ∧ SameRegsBut [.a] s t ∧ SameControl s t

/-- 44_stack.md R278 (that of `PSW` the byte at `SP - 1` is `A` and the one at `SP - 2` the flags is the
spec's own choice D29, log 19): popping what was just pushed restores the pair, or `A` and the five
flags, and `SP`; the two bytes below the old `SP` keep what was pushed; and pushing one pair and popping
another copies it. -/
def Obligations.PopAfterPushRestores : Prop :=
  ∀ s : State, s.mem.wf = true → CanPush s →
    (∀ pr qr : Pair, pr.isStackable = true → qr.isStackable = true →
      ∃ t u, exec (.push pr) s = .next t ∧ exec (.pop qr) t = .next u ∧
        u.getPair qr = s.getPair pr ∧ SameRegsBut (pairHalves qr) s u ∧ u.sp = s.sp ∧
        u.flags = s.flags ∧ SameMem t u ∧
        joinBytes (u.peek (s.sp - 1)) (u.peek (s.sp - 2)) = s.getPair pr) ∧
    (∃ t u, exec .pushPsw s = .next t ∧ exec .popPsw t = .next u ∧
      SameRegsBut [] s u ∧ u.flags = s.flags ∧ u.sp = s.sp ∧ SameMem t u ∧
      u.peek (s.sp - 1) = s.getReg .a ∧ IsPsw s.flags (u.peek (s.sp - 2)))

/-- 44_stack.md R276 (the pairing of the bytes is the spec's own choice D21, log 19): `XTHL` exchanges `L`
with the byte at `SP` and `H` with the byte at `SP + 1`; `SP` is kept. -/
def Obligations.ExchangeHlWithStack : Prop :=
  ∀ s : State, s.mem.wf = true → CanPop s →
    ∃ t, exec .xthl s = .next t ∧ t.getReg .l = s.peek s.sp ∧ t.getReg .h = s.peek (s.sp + 1) ∧
      t.peek s.sp = s.getReg .l ∧ t.peek (s.sp + 1) = s.getReg .h ∧
      t.sp = s.sp ∧ t.pc = s.pc + 1 ∧ SameMemOutside [s.sp, s.sp + 1] s t ∧
      SameRegsBut [.h, .l] s t ∧ t.flags = s.flags ∧ SameControl s t

/-- 44_stack.md R277 (its byte is the spec's general knowledge, G10): `SPHL` puts `HL` into `SP` and
changes nothing else but `PC`. -/
def Obligations.SphlSetsSp : Prop :=
  encode .sphl = [0xF9] ∧
  ∀ s : State, exec .sphl s = .next { s with sp := s.hl, pc := s.pc + 1 }

/-! ## Machine control -/

/-- 45_machine_control.md R290, R294, R295 (that all twelve undefined bytes are `NOP` is the spec's own
choice D9, log 9): `NOP` and the undefined bytes advance `PC` by one and change nothing else. -/
def Obligations.NopAdvancesOnly : Prop :=
  ∀ s : State,
    exec .nop s = .next { s with pc := s.pc + 1 } ∧
    (∀ x, exec (.undefLow x) s = .next { s with pc := s.pc + 1 }) ∧
    (∀ u, exec (.undefHigh u) s = .next { s with pc := s.pc + 1 })

/-- 45_machine_control.md R291, R296 (that `PC` is past the `HLT` byte and that the outcome repeats are the
spec's own choices D13, log 16, and D27; that `HLT` and every later step are a Lean `next`, with `Halted`
read off by `report`, is the model's, log 1): `HLT` halts the machine, the host is told so, and no
number of further steps changes anything. -/
def Obligations.HaltIsTerminal : Prop :=
  ∀ s : State, ∃ t, exec .hlt s = .next t ∧ t = { s with pc := s.pc + 1, status := .halted } ∧
    t.report = .halted ∧ t.isDone = true ∧
    ∀ k : Nat, Sys2Proof.core.run k t = .next t

/-- 45_machine_control.md R292, R293 (that these two write the flag, and the bytes, are the spec's general
knowledge, G6): `EI` sets and `DI` clears `INTE` at once, and nothing else changes but `PC`. -/
def Obligations.EnableAndDisableInterrupts : Prop :=
  encode .ei = [0xFB] ∧ encode .di = [0xF3] ∧
  ∀ s : State,
    exec .ei s = .next { s with inte := true, pc := s.pc + 1 } ∧
    exec .di s = .next { s with inte := false, pc := s.pc + 1 }

/-! ## Input and output -/

/-- 46_io.md R311, R313, R314, R316 (that the offset is the low three bits of the value is the spec's own
choice D15, log 20): `OUT 2` sets the offset, `OUT 4` shifts the window, every other `OUT` does nothing;
`A`, the flags and memory are kept. -/
def Obligations.OutWritesThePortController : Prop :=
  ∀ (s : State) (port : Byte),
    ∃ t, exec (.out port) s = .next t ∧
      (port = 2 → t.io.offset.toNat = (s.getReg .a).toNat % 8 ∧ t.io.shift0 = s.io.shift0 ∧
        t.io.shift1 = s.io.shift1) ∧
      (port = 4 → t.io.shift0 = s.io.shift1 ∧ t.io.shift1 = s.getReg .a ∧
        t.io.offset = s.io.offset) ∧
      (port ≠ 2 → port ≠ 4 → t.io = s.io) ∧
      t = { s with pc := s.pc + 2, io := t.io }

/-- 46_io.md R312, R315, R316 (that the other ports load 0 into `A` is the spec's own choice D16, log 20):
`IN 3` loads the 8-bit slice of the window that the offset selects, every other `IN` loads 0; no flag
and no port state changes. -/
def Obligations.InReadsTheWindow : Prop :=
  ∀ (s : State) (port : Byte),
    ∃ t, exec (.inp port) s = .next t ∧
      (port = 3 → (t.getReg .a).toNat =
        (s.io.shift1.toNat * 256 + s.io.shift0.toNat) / 2 ^ (8 - s.io.offset.toNat) % 256) ∧
      (port ≠ 3 → t.getReg .a = 0) ∧ t.flags = s.flags ∧ RegOnly [.a] 2 s t
end

