-- ==== Sys2Proof/Laws/Decode.lean ====
section
/-! SUPPORT. What the opcode byte alone settles: the format of an instruction, and which of the two operand
bytes the decoder looks at (30_encoding.md R90, R91, R96). -/

namespace Sys2Proof

/-- How an instruction that is given by its operand byte and word depends on them: the format does not, a
one-byte instruction depends on neither, a two-byte one on the byte alone. -/
structure UsesOperandsOfItsFormat (f : Byte → Word → Instr) : Prop where
  format : ∀ d w, (f d w).format = (f 0 0).format
  f1 : (f 0 0).format = .f1 → ∀ d w, f d w = f 0 0
  f2 : (f 0 0).format = .f2 → ∀ d w w', f d w = f d w'

theorem Format.f1_ne_f2 (h : Format.f1 = .f2) : False := nomatch h
theorem Format.f2_ne_f1 (h : Format.f2 = .f1) : False := nomatch h
theorem Format.f3_ne_f1 (h : Format.f3 = .f1) : False := nomatch h
theorem Format.f3_ne_f2 (h : Format.f3 = .f2) : False := nomatch h

/-- The eight values of a field of three bits. -/
theorem bitVec3_cases : ∀ x : BitVec 3,
    x = 0 ∨ x = 1 ∨ x = 2 ∨ x = 3 ∨ x = 4 ∨ x = 5 ∨ x = 6 ∨ x = 7 := by decide

/-- The four values of a field of two bits. -/
theorem bitVec2_cases : ∀ x : BitVec 2, x = 0 ∨ x = 1 ∨ x = 2 ∨ x = 3 := by decide

theorem decodeQ0_uses (y z : BitVec 3) : UsesOperandsOfItsFormat (decodeQ0 y z) := by
  rcases bitVec3_cases y with rfl | rfl | rfl | rfl | rfl | rfl | rfl | rfl <;>
    rcases bitVec3_cases z with rfl | rfl | rfl | rfl | rfl | rfl | rfl | rfl <;>
    first
    | exact ⟨fun _ _ => rfl, fun _ _ _ => rfl, fun h => (Format.f1_ne_f2 h).elim⟩
    | exact ⟨fun _ _ => rfl, fun h => (Format.f2_ne_f1 h).elim, fun _ _ _ _ => rfl⟩
    | exact ⟨fun _ _ => rfl, fun h => (Format.f3_ne_f1 h).elim, fun h => (Format.f3_ne_f2 h).elim⟩

theorem decodeQ3_uses (y z : BitVec 3) : UsesOperandsOfItsFormat (decodeQ3 y z) := by
  rcases bitVec3_cases y with rfl | rfl | rfl | rfl | rfl | rfl | rfl | rfl <;>
    rcases bitVec3_cases z with rfl | rfl | rfl | rfl | rfl | rfl | rfl | rfl <;>
    first
    | exact ⟨fun _ _ => rfl, fun _ _ _ => rfl, fun h => (Format.f1_ne_f2 h).elim⟩
    | exact ⟨fun _ _ => rfl, fun h => (Format.f2_ne_f1 h).elim, fun _ _ _ _ => rfl⟩
    | exact ⟨fun _ _ => rfl, fun h => (Format.f3_ne_f1 h).elim, fun h => (Format.f3_ne_f2 h).elim⟩

/-- An instruction without operand bytes at all, of one byte. -/
theorem const_uses (i : Instr) (h : i.format = .f1) : UsesOperandsOfItsFormat (fun _ _ => i) :=
  ⟨fun _ _ => rfl, fun _ _ _ => rfl, fun h2 => (Format.f1_ne_f2 (h.symm.trans h2)).elim⟩

theorem decodeQ1_format (y z : BitVec 3) : (decodeQ1 y z).format = .f1 := by
  rcases bitVec3_cases y with rfl | rfl | rfl | rfl | rfl | rfl | rfl | rfl <;>
    rcases bitVec3_cases z with rfl | rfl | rfl | rfl | rfl | rfl | rfl | rfl <;> rfl

theorem decodeQ2_format (y z : BitVec 3) : (decodeQ2 y z).format = .f1 := by
  rcases bitVec3_cases y with rfl | rfl | rfl | rfl | rfl | rfl | rfl | rfl <;>
    rcases bitVec3_cases z with rfl | rfl | rfl | rfl | rfl | rfl | rfl | rfl <;> rfl

/-- The decoder at one opcode byte, as a function of the operand byte and the operand word. -/
theorem decodeOp_uses (b0 : Byte) :
    ∃ f, UsesOperandsOfItsFormat f ∧ ∀ b1 b2, decodeOp b0 b1 b2 = f b1 (joinBytes b2 b1) := by
  unfold decodeOp
  generalize (b0.extractLsb' 6 2 : BitVec 2) = q
  rcases bitVec2_cases q with rfl | rfl | rfl | rfl
  · exact ⟨_, decodeQ0_uses _ _, fun _ _ => rfl⟩
  · exact ⟨_, const_uses _ (decodeQ1_format (b0.extractLsb' 3 3) (b0.extractLsb' 0 3)),
      fun _ _ => rfl⟩
  · exact ⟨_, const_uses _ (decodeQ2_format (b0.extractLsb' 3 3) (b0.extractLsb' 0 3)),
      fun _ _ => rfl⟩
  · exact ⟨_, decodeQ3_uses _ _, fun _ _ => rfl⟩

theorem decodeOp_format (b0 b1 b2 : Byte) : (decodeOp b0 b1 b2).format = opcodeFormat b0 := by
  obtain ⟨f, hf, h⟩ := decodeOp_uses b0
  rw [opcodeFormat, h, h, hf.format]
  exact (hf.format 0 _).symm

theorem decodeOp_of_f1 {b0 : Byte} (b1 b2 : Byte) (hb : opcodeFormat b0 = .f1) :
    decodeOp b0 b1 b2 = decodeOp b0 0 0 := by
  obtain ⟨f, hf, h⟩ := decodeOp_uses b0
  rw [opcodeFormat, h] at hb
  have hb : (f 0 0).format = .f1 := (hf.format 0 _).symm.trans hb
  rw [h, h, hf.f1 hb]
  exact (hf.f1 hb 0 _).symm

theorem decodeOp_of_f2 {b0 : Byte} (b1 b2 : Byte) (hb : opcodeFormat b0 = .f2) :
    decodeOp b0 b1 b2 = decodeOp b0 b1 0 := by
  obtain ⟨f, hf, h⟩ := decodeOp_uses b0
  rw [opcodeFormat, h] at hb
  rw [h, h]
  exact hf.f2 ((hf.format 0 _).symm.trans hb) _ _ _

end Sys2Proof
end

