-- ==== Sys2Proof/Laws/State.lean ====
section
/-! SUPPORT. One lemma per field and update of State, all by `rfl` (or by the four cases of a pair), and
the reads of one register, of a pair and of one byte after an update. -/

namespace Sys2Proof.Machine

variable (s : State)

@[simp] theorem State.setReg_regs (x : Reg8) (v : Byte) : (s.setReg x v).regs = s.regs.set x v := rfl
@[simp] theorem State.setReg_sp (x : Reg8) (v : Byte) : (s.setReg x v).sp = s.sp := rfl
@[simp] theorem State.setReg_pc (x : Reg8) (v : Byte) : (s.setReg x v).pc = s.pc := rfl
@[simp] theorem State.setReg_flags (x : Reg8) (v : Byte) : (s.setReg x v).flags = s.flags := rfl
@[simp] theorem State.setReg_inte (x : Reg8) (v : Byte) : (s.setReg x v).inte = s.inte := rfl
@[simp] theorem State.setReg_status (x : Reg8) (v : Byte) : (s.setReg x v).status = s.status := rfl
@[simp] theorem State.setReg_io (x : Reg8) (v : Byte) : (s.setReg x v).io = s.io := rfl
@[simp] theorem State.setReg_mem (x : Reg8) (v : Byte) : (s.setReg x v).mem = s.mem := rfl
@[simp] theorem State.setReg_cfg (x : Reg8) (v : Byte) : (s.setReg x v).cfg = s.cfg := rfl

@[simp] theorem State.setSp_regs (v : Word) : (s.setSp v).regs = s.regs := rfl
@[simp] theorem State.setSp_sp (v : Word) : (s.setSp v).sp = v := rfl
@[simp] theorem State.setSp_pc (v : Word) : (s.setSp v).pc = s.pc := rfl
@[simp] theorem State.setSp_flags (v : Word) : (s.setSp v).flags = s.flags := rfl
@[simp] theorem State.setSp_inte (v : Word) : (s.setSp v).inte = s.inte := rfl
@[simp] theorem State.setSp_status (v : Word) : (s.setSp v).status = s.status := rfl
@[simp] theorem State.setSp_io (v : Word) : (s.setSp v).io = s.io := rfl
@[simp] theorem State.setSp_mem (v : Word) : (s.setSp v).mem = s.mem := rfl
@[simp] theorem State.setSp_cfg (v : Word) : (s.setSp v).cfg = s.cfg := rfl

@[simp] theorem State.setPc_regs (v : Word) : (s.setPc v).regs = s.regs := rfl
@[simp] theorem State.setPc_sp (v : Word) : (s.setPc v).sp = s.sp := rfl
@[simp] theorem State.setPc_pc (v : Word) : (s.setPc v).pc = v := rfl
@[simp] theorem State.setPc_flags (v : Word) : (s.setPc v).flags = s.flags := rfl
@[simp] theorem State.setPc_inte (v : Word) : (s.setPc v).inte = s.inte := rfl
@[simp] theorem State.setPc_status (v : Word) : (s.setPc v).status = s.status := rfl
@[simp] theorem State.setPc_io (v : Word) : (s.setPc v).io = s.io := rfl
@[simp] theorem State.setPc_mem (v : Word) : (s.setPc v).mem = s.mem := rfl
@[simp] theorem State.setPc_cfg (v : Word) : (s.setPc v).cfg = s.cfg := rfl

@[simp] theorem State.setFlags_regs (f : Flags) : (s.setFlags f).regs = s.regs := rfl
@[simp] theorem State.setFlags_sp (f : Flags) : (s.setFlags f).sp = s.sp := rfl
@[simp] theorem State.setFlags_pc (f : Flags) : (s.setFlags f).pc = s.pc := rfl
@[simp] theorem State.setFlags_flags (f : Flags) : (s.setFlags f).flags = f := rfl
@[simp] theorem State.setFlags_inte (f : Flags) : (s.setFlags f).inte = s.inte := rfl
@[simp] theorem State.setFlags_status (f : Flags) : (s.setFlags f).status = s.status := rfl
@[simp] theorem State.setFlags_io (f : Flags) : (s.setFlags f).io = s.io := rfl
@[simp] theorem State.setFlags_mem (f : Flags) : (s.setFlags f).mem = s.mem := rfl
@[simp] theorem State.setFlags_cfg (f : Flags) : (s.setFlags f).cfg = s.cfg := rfl

@[simp] theorem State.setCy_regs (v : Bool) : (s.setCy v).regs = s.regs := rfl
@[simp] theorem State.setCy_sp (v : Bool) : (s.setCy v).sp = s.sp := rfl
@[simp] theorem State.setCy_pc (v : Bool) : (s.setCy v).pc = s.pc := rfl
@[simp] theorem State.setCy_flags (v : Bool) : (s.setCy v).flags = { s.flags with cy := v } := rfl
@[simp] theorem State.setCy_inte (v : Bool) : (s.setCy v).inte = s.inte := rfl
@[simp] theorem State.setCy_status (v : Bool) : (s.setCy v).status = s.status := rfl
@[simp] theorem State.setCy_io (v : Bool) : (s.setCy v).io = s.io := rfl
@[simp] theorem State.setCy_mem (v : Bool) : (s.setCy v).mem = s.mem := rfl
@[simp] theorem State.setCy_cfg (v : Bool) : (s.setCy v).cfg = s.cfg := rfl

@[simp] theorem State.setInte_regs (v : Bool) : (s.setInte v).regs = s.regs := rfl
@[simp] theorem State.setInte_sp (v : Bool) : (s.setInte v).sp = s.sp := rfl
@[simp] theorem State.setInte_pc (v : Bool) : (s.setInte v).pc = s.pc := rfl
@[simp] theorem State.setInte_flags (v : Bool) : (s.setInte v).flags = s.flags := rfl
@[simp] theorem State.setInte_inte (v : Bool) : (s.setInte v).inte = v := rfl
@[simp] theorem State.setInte_status (v : Bool) : (s.setInte v).status = s.status := rfl
@[simp] theorem State.setInte_io (v : Bool) : (s.setInte v).io = s.io := rfl
@[simp] theorem State.setInte_mem (v : Bool) : (s.setInte v).mem = s.mem := rfl
@[simp] theorem State.setInte_cfg (v : Bool) : (s.setInte v).cfg = s.cfg := rfl

@[simp] theorem State.setStatus_regs (v : RunStatus) : (s.setStatus v).regs = s.regs := rfl
@[simp] theorem State.setStatus_sp (v : RunStatus) : (s.setStatus v).sp = s.sp := rfl
@[simp] theorem State.setStatus_pc (v : RunStatus) : (s.setStatus v).pc = s.pc := rfl
@[simp] theorem State.setStatus_flags (v : RunStatus) : (s.setStatus v).flags = s.flags := rfl
@[simp] theorem State.setStatus_inte (v : RunStatus) : (s.setStatus v).inte = s.inte := rfl
@[simp] theorem State.setStatus_status (v : RunStatus) : (s.setStatus v).status = v := rfl
@[simp] theorem State.setStatus_io (v : RunStatus) : (s.setStatus v).io = s.io := rfl
@[simp] theorem State.setStatus_mem (v : RunStatus) : (s.setStatus v).mem = s.mem := rfl
@[simp] theorem State.setStatus_cfg (v : RunStatus) : (s.setStatus v).cfg = s.cfg := rfl

@[simp] theorem State.setIo_regs (v : IoPorts) : (s.setIo v).regs = s.regs := rfl
@[simp] theorem State.setIo_sp (v : IoPorts) : (s.setIo v).sp = s.sp := rfl
@[simp] theorem State.setIo_pc (v : IoPorts) : (s.setIo v).pc = s.pc := rfl
@[simp] theorem State.setIo_flags (v : IoPorts) : (s.setIo v).flags = s.flags := rfl
@[simp] theorem State.setIo_inte (v : IoPorts) : (s.setIo v).inte = s.inte := rfl
@[simp] theorem State.setIo_status (v : IoPorts) : (s.setIo v).status = s.status := rfl
@[simp] theorem State.setIo_io (v : IoPorts) : (s.setIo v).io = v := rfl
@[simp] theorem State.setIo_mem (v : IoPorts) : (s.setIo v).mem = s.mem := rfl
@[simp] theorem State.setIo_cfg (v : IoPorts) : (s.setIo v).cfg = s.cfg := rfl

@[simp] theorem State.poke_regs (a : Word) (v : Byte) : (s.poke a v).regs = s.regs := rfl
@[simp] theorem State.poke_sp (a : Word) (v : Byte) : (s.poke a v).sp = s.sp := rfl
@[simp] theorem State.poke_pc (a : Word) (v : Byte) : (s.poke a v).pc = s.pc := rfl
@[simp] theorem State.poke_flags (a : Word) (v : Byte) : (s.poke a v).flags = s.flags := rfl
@[simp] theorem State.poke_inte (a : Word) (v : Byte) : (s.poke a v).inte = s.inte := rfl
@[simp] theorem State.poke_status (a : Word) (v : Byte) : (s.poke a v).status = s.status := rfl
@[simp] theorem State.poke_io (a : Word) (v : Byte) : (s.poke a v).io = s.io := rfl
@[simp] theorem State.poke_mem (a : Word) (v : Byte) : (s.poke a v).mem = s.mem.write a.toNat v := rfl
@[simp] theorem State.poke_cfg (a : Word) (v : Byte) : (s.poke a v).cfg = s.cfg := rfl

@[simp] theorem State.advance_regs (len : Nat) : (s.advance len).regs = s.regs := rfl
@[simp] theorem State.advance_sp (len : Nat) : (s.advance len).sp = s.sp := rfl
@[simp] theorem State.advance_pc (len : Nat) : (s.advance len).pc = s.nextPc len := rfl
@[simp] theorem State.advance_flags (len : Nat) : (s.advance len).flags = s.flags := rfl
@[simp] theorem State.advance_inte (len : Nat) : (s.advance len).inte = s.inte := rfl
@[simp] theorem State.advance_status (len : Nat) : (s.advance len).status = s.status := rfl
@[simp] theorem State.advance_io (len : Nat) : (s.advance len).io = s.io := rfl
@[simp] theorem State.advance_mem (len : Nat) : (s.advance len).mem = s.mem := rfl
@[simp] theorem State.advance_cfg (len : Nat) : (s.advance len).cfg = s.cfg := rfl

@[simp] theorem State.enterFault_regs : s.enterFault.regs = s.regs := rfl
@[simp] theorem State.enterFault_sp : s.enterFault.sp = s.sp := rfl
@[simp] theorem State.enterFault_pc : s.enterFault.pc = s.pc := rfl
@[simp] theorem State.enterFault_flags : s.enterFault.flags = s.flags := rfl
@[simp] theorem State.enterFault_inte : s.enterFault.inte = s.inte := rfl
@[simp] theorem State.enterFault_status : s.enterFault.status = .faulted := rfl
@[simp] theorem State.enterFault_io : s.enterFault.io = s.io := rfl
@[simp] theorem State.enterFault_mem : s.enterFault.mem = s.mem := rfl
@[simp] theorem State.enterFault_cfg : s.enterFault.cfg = s.cfg := rfl

@[simp] theorem State.putAcc_regs (r : AluResult) : (s.putAcc r).regs = s.regs.set .a r.res := rfl
@[simp] theorem State.putAcc_sp (r : AluResult) : (s.putAcc r).sp = s.sp := rfl
@[simp] theorem State.putAcc_pc (r : AluResult) : (s.putAcc r).pc = s.pc := rfl
@[simp] theorem State.putAcc_flags (r : AluResult) : (s.putAcc r).flags = r.flags := rfl
@[simp] theorem State.putAcc_inte (r : AluResult) : (s.putAcc r).inte = s.inte := rfl
@[simp] theorem State.putAcc_status (r : AluResult) : (s.putAcc r).status = s.status := rfl
@[simp] theorem State.putAcc_io (r : AluResult) : (s.putAcc r).io = s.io := rfl
@[simp] theorem State.putAcc_mem (r : AluResult) : (s.putAcc r).mem = s.mem := rfl
@[simp] theorem State.putAcc_cfg (r : AluResult) : (s.putAcc r).cfg = s.cfg := rfl

@[simp] theorem State.putRotate_regs (r : Byte × Bool) : (s.putRotate r).regs = s.regs.set .a r.1 := rfl
@[simp] theorem State.putRotate_sp (r : Byte × Bool) : (s.putRotate r).sp = s.sp := rfl
@[simp] theorem State.putRotate_pc (r : Byte × Bool) : (s.putRotate r).pc = s.pc := rfl
@[simp] theorem State.putRotate_flags (r : Byte × Bool) : (s.putRotate r).flags = { s.flags with cy := r.2 } := rfl
@[simp] theorem State.putRotate_inte (r : Byte × Bool) : (s.putRotate r).inte = s.inte := rfl
@[simp] theorem State.putRotate_status (r : Byte × Bool) : (s.putRotate r).status = s.status := rfl
@[simp] theorem State.putRotate_io (r : Byte × Bool) : (s.putRotate r).io = s.io := rfl
@[simp] theorem State.putRotate_mem (r : Byte × Bool) : (s.putRotate r).mem = s.mem := rfl
@[simp] theorem State.putRotate_cfg (r : Byte × Bool) : (s.putRotate r).cfg = s.cfg := rfl

@[simp] theorem State.setPair_pc (x : Pair) (v : Word) : (s.setPair x v).pc = s.pc := by cases x <;> rfl
@[simp] theorem State.setPair_flags (x : Pair) (v : Word) : (s.setPair x v).flags = s.flags := by cases x <;> rfl
@[simp] theorem State.setPair_inte (x : Pair) (v : Word) : (s.setPair x v).inte = s.inte := by cases x <;> rfl
@[simp] theorem State.setPair_status (x : Pair) (v : Word) : (s.setPair x v).status = s.status := by cases x <;> rfl
@[simp] theorem State.setPair_io (x : Pair) (v : Word) : (s.setPair x v).io = s.io := by cases x <;> rfl
@[simp] theorem State.setPair_mem (x : Pair) (v : Word) : (s.setPair x v).mem = s.mem := by cases x <;> rfl
@[simp] theorem State.setPair_cfg (x : Pair) (v : Word) : (s.setPair x v).cfg = s.cfg := by cases x <;> rfl

theorem State.setPair_sp (x : Pair) (v : Word) : (s.setPair x v).sp = if x = .sp then v else s.sp := by
  cases x <;> rfl

/-! ## Registers -/

@[simp] theorem RegFile.get_set (r : RegFile) (x y : Reg8) (v : Byte) :
    (r.set x v).get y = if y = x then v else r.get y := by
  cases x <;> cases y <;> rfl

@[simp] theorem State.getReg_setReg (x y : Reg8) (v : Byte) :
    (s.setReg x v).getReg y = if y = x then v else s.getReg y := RegFile.get_set s.regs x y v

@[simp] theorem State.getReg_setSp (v : Word) (x : Reg8) : (s.setSp v).getReg x = s.getReg x := rfl
@[simp] theorem State.getReg_setPc (v : Word) (x : Reg8) : (s.setPc v).getReg x = s.getReg x := rfl
@[simp] theorem State.getReg_setFlags (f : Flags) (x : Reg8) : (s.setFlags f).getReg x = s.getReg x := rfl
@[simp] theorem State.getReg_setCy (v : Bool) (x : Reg8) : (s.setCy v).getReg x = s.getReg x := rfl
@[simp] theorem State.getReg_setInte (v : Bool) (x : Reg8) : (s.setInte v).getReg x = s.getReg x := rfl
@[simp] theorem State.getReg_setStatus (v : RunStatus) (x : Reg8) : (s.setStatus v).getReg x = s.getReg x := rfl
@[simp] theorem State.getReg_setIo (v : IoPorts) (x : Reg8) : (s.setIo v).getReg x = s.getReg x := rfl
@[simp] theorem State.getReg_poke (a : Word) (v : Byte) (x : Reg8) : (s.poke a v).getReg x = s.getReg x := rfl
@[simp] theorem State.getReg_advance (len : Nat) (x : Reg8) : (s.advance len).getReg x = s.getReg x := rfl
@[simp] theorem State.getReg_enterFault (x : Reg8) : s.enterFault.getReg x = s.getReg x := rfl
@[simp] theorem State.getReg_putAcc (r : AluResult) (x : Reg8) :
    (s.putAcc r).getReg x = if x = .a then r.res else s.getReg x := RegFile.get_set s.regs .a x _
@[simp] theorem State.getReg_putRotate (r : Byte × Bool) (x : Reg8) :
    (s.putRotate r).getReg x = if x = .a then r.1 else s.getReg x := RegFile.get_set s.regs .a x _

/-! ## Pairs are views (10_state.md R22) -/

@[simp] theorem hiByte_joinBytes (hi lo : Byte) : hiByte (joinBytes hi lo) = hi := by
  unfold hiByte joinBytes
  ext i hl
  rw [BitVec.getElem_extractLsb']
  exact (BitVec.getLsbD_append (x := hi) (y := lo) (i := 8 + i)).trans (by simp [BitVec.getLsbD_eq_getElem hl])

@[simp] theorem loByte_joinBytes (hi lo : Byte) : loByte (joinBytes hi lo) = lo := by
  unfold loByte joinBytes
  ext i hl
  rw [BitVec.getElem_extractLsb']
  exact (BitVec.getLsbD_append (x := hi) (y := lo) (i := 0 + i)).trans (by simp [hl])

@[simp] theorem joinBytes_hiByte_loByte (v : Word) : joinBytes (hiByte v) (loByte v) = v := by
  unfold hiByte loByte joinBytes; exact BitVec.extractLsb'_append_extractLsb'_eq_extractLsb' (by rfl) |>.trans (by simp)

@[simp] theorem State.getPair_setPair (x : Pair) (v : Word) : (s.setPair x v).getPair x = v := by
  cases x <;> simp [State.setPair, State.getPair, State.bc, State.de, State.hl]

theorem State.getPair_setPair_ne {x y : Pair} (h : y ≠ x) (v : Word) :
    (s.setPair x v).getPair y = s.getPair y := by
  cases x <;> cases y <;> first | exact absurd rfl h | rfl

theorem State.getReg_setPair_other {x : Pair} {r : Reg8} (h : r ∉ pairHalves x) (v : Word) :
    (s.setPair x v).getReg r = s.getReg r := by
  cases x <;> cases r <;> first | rfl | simp [pairHalves] at h

/-! ## One byte of memory and the range check -/

@[simp] theorem State.peek_setReg (x : Reg8) (v : Byte) (a : Word) : (s.setReg x v).peek a = s.peek a := rfl
@[simp] theorem State.peek_setSp (v : Word) (a : Word) : (s.setSp v).peek a = s.peek a := rfl
@[simp] theorem State.peek_setPc (v : Word) (a : Word) : (s.setPc v).peek a = s.peek a := rfl
@[simp] theorem State.peek_setFlags (f : Flags) (a : Word) : (s.setFlags f).peek a = s.peek a := rfl
@[simp] theorem State.peek_setCy (v : Bool) (a : Word) : (s.setCy v).peek a = s.peek a := rfl
@[simp] theorem State.peek_setInte (v : Bool) (a : Word) : (s.setInte v).peek a = s.peek a := rfl
@[simp] theorem State.peek_setStatus (v : RunStatus) (a : Word) : (s.setStatus v).peek a = s.peek a := rfl
@[simp] theorem State.peek_setIo (v : IoPorts) (a : Word) : (s.setIo v).peek a = s.peek a := rfl
@[simp] theorem State.peek_advance (len : Nat) (a : Word) : (s.advance len).peek a = s.peek a := rfl
@[simp] theorem State.peek_enterFault (a : Word) : s.enterFault.peek a = s.peek a := rfl
@[simp] theorem State.peek_putAcc (r : AluResult) (a : Word) : (s.putAcc r).peek a = s.peek a := rfl
@[simp] theorem State.peek_putRotate (r : Byte × Bool) (a : Word) : (s.putRotate r).peek a = s.peek a := rfl
@[simp] theorem State.peek_setPair (x : Pair) (v : Word) (a : Word) : (s.setPair x v).peek a = s.peek a := by
  cases x <;> rfl

@[simp] theorem State.inRange_setReg (x : Reg8) (v : Byte) (a : Word) : (s.setReg x v).inRange a = s.inRange a := rfl
@[simp] theorem State.inRange_setSp (v : Word) (a : Word) : (s.setSp v).inRange a = s.inRange a := rfl
@[simp] theorem State.inRange_setPc (v : Word) (a : Word) : (s.setPc v).inRange a = s.inRange a := rfl
@[simp] theorem State.inRange_setFlags (f : Flags) (a : Word) : (s.setFlags f).inRange a = s.inRange a := rfl
@[simp] theorem State.inRange_setCy (v : Bool) (a : Word) : (s.setCy v).inRange a = s.inRange a := rfl
@[simp] theorem State.inRange_setInte (v : Bool) (a : Word) : (s.setInte v).inRange a = s.inRange a := rfl
@[simp] theorem State.inRange_setStatus (v : RunStatus) (a : Word) : (s.setStatus v).inRange a = s.inRange a := rfl
@[simp] theorem State.inRange_setIo (v : IoPorts) (a : Word) : (s.setIo v).inRange a = s.inRange a := rfl
@[simp] theorem State.inRange_poke (b : Word) (v : Byte) (a : Word) : (s.poke b v).inRange a = s.inRange a := rfl
@[simp] theorem State.inRange_advance (len : Nat) (a : Word) : (s.advance len).inRange a = s.inRange a := rfl
@[simp] theorem State.inRange_enterFault (a : Word) : s.enterFault.inRange a = s.inRange a := rfl
@[simp] theorem State.inRange_putAcc (r : AluResult) (a : Word) : (s.putAcc r).inRange a = s.inRange a := rfl
@[simp] theorem State.inRange_putRotate (r : Byte × Bool) (a : Word) : (s.putRotate r).inRange a = s.inRange a := rfl
@[simp] theorem State.inRange_setPair (x : Pair) (v : Word) (a : Word) :
    (s.setPair x v).inRange a = s.inRange a := by
  cases x <;> rfl

theorem State.inRange_iff (a : Word) : s.inRange a = true ↔ a.toNat < s.cfg.memSize := by
  simp [State.inRange]

end Sys2Proof.Machine
end

