-- ==== Sys2Proof/Laws/Memory.lean ====
section
/-! SUPPORT. Memory as a list: reading after writing, the canonical form, and that every memory operation
keeps it (`write`, `poke`, `ofBytesFrom`). -/

namespace Sys2Proof.Machine

namespace MemoryLaws

/-! ## Read after write -/

theorem read_write_other (m : Memory) {a b : Nat} (v : Byte) (h : b ≠ a) :
    (Memory.write m a v).read b = Memory.read m b := by
  induction m with
  | nil =>
    by_cases hv : v = Memory.unlisted
    · simp [Memory.write, hv]
    · simp [Memory.write, Memory.read, hv, h]
  | cons cell m ih =>
    obtain ⟨c, w⟩ := cell
    simp only [Memory.write]
    split
    · split
      · rfl
      · simp [Memory.read, h]
    · split
      · rename_i hac
        subst hac
        split <;> simp [Memory.read, h]
      · simp [Memory.read, ih]

theorem read_below_lo (m : Memory) {lo a : Nat} (hm : Memory.wfFrom lo m = true) (h : a < lo) :
    Memory.read m a = Memory.unlisted := by
  induction m generalizing lo with
  | nil => rfl
  | cons cell m ih =>
    obtain ⟨c, w⟩ := cell
    simp only [Memory.wfFrom, Bool.and_eq_true, decide_eq_true_eq] at hm
    simp only [Memory.read]
    rw [if_neg (by omega)]
    exact ih hm.2 (by omega)

theorem read_write_same_from (m : Memory) {lo : Nat} (a : Nat) (v : Byte)
    (hm : Memory.wfFrom lo m = true) : (Memory.write m a v).read a = v := by
  induction m generalizing lo with
  | nil =>
    by_cases hv : v = Memory.unlisted <;> simp [Memory.write, Memory.read, hv]
  | cons cell m ih =>
    obtain ⟨c, w⟩ := cell
    simp only [Memory.wfFrom, Bool.and_eq_true, decide_eq_true_eq] at hm
    simp only [Memory.write]
    split
    · split
      · rename_i hv
        subst hv
        simp only [Memory.read]
        rw [if_neg (by omega)]
        exact read_below_lo m hm.2 (by omega)
      · simp [Memory.read]
    · split
      · rename_i hac
        subst hac
        split
        · rename_i hv
          subst hv
          exact read_below_lo m hm.2 (by omega)
        · simp [Memory.read]
      · rename_i hac
        simp only [Memory.read, if_neg hac]
        exact ih hm.2

theorem read_write_same (m : Memory) (a : Nat) (v : Byte) (hm : m.wf = true) :
    (Memory.write m a v).read a = v := read_write_same_from m a v hm

/-! ## The canonical form is kept -/

theorem write_wfFrom (m : Memory) {lo a : Nat} (v : Byte) (hm : Memory.wfFrom lo m = true)
    (ha : lo ≤ a) : Memory.wfFrom lo (m.write a v) = true := by
  induction m generalizing lo with
  | nil =>
    by_cases hv : v = Memory.unlisted <;> simp [Memory.write, Memory.wfFrom, hv, ha]
  | cons cell m ih =>
    obtain ⟨c, w⟩ := cell
    have hm' := hm
    simp only [Memory.wfFrom, Bool.and_eq_true, decide_eq_true_eq, bne_iff_ne] at hm
    obtain ⟨⟨hc, hw⟩, hrest⟩ := hm
    simp only [Memory.write]
    split
    · rename_i hac
      split
      · exact hm'
      · rename_i hv
        simp only [Memory.wfFrom, Bool.and_eq_true, decide_eq_true_eq, bne_iff_ne]
        exact ⟨⟨ha, hv⟩, ⟨by omega, hw⟩, hrest⟩
    · split
      · rename_i hac
        subst hac
        split
        · clear ih hm'
          cases m with
          | nil => rfl
          | cons cell m =>
            obtain ⟨d, u⟩ := cell
            simp only [Memory.wfFrom, Bool.and_eq_true, decide_eq_true_eq, bne_iff_ne] at hrest ⊢
            exact ⟨⟨by omega, hrest.1.2⟩, hrest.2⟩
        · rename_i hv
          simp only [Memory.wfFrom, Bool.and_eq_true, decide_eq_true_eq, bne_iff_ne]
          exact ⟨⟨ha, hv⟩, hrest⟩
      · simp only [Memory.wfFrom, Bool.and_eq_true, decide_eq_true_eq, bne_iff_ne]
        exact ⟨⟨hc, hw⟩, ih hrest (by omega)⟩

theorem write_wf (m : Memory) (a : Nat) (v : Byte) (hm : m.wf = true) : (m.write a v).wf = true :=
  write_wfFrom m v hm (Nat.zero_le a)

theorem mem_write (m : Memory) (a : Nat) (v : Byte) (cell : Host.Cell) (h : cell ∈ m.write a v) :
    cell = (a, v) ∨ cell ∈ m := by
  induction m with
  | nil =>
    by_cases hv : v = Memory.unlisted <;> simp_all [Memory.write]
  | cons head m ih =>
    obtain ⟨c, w⟩ := head
    simp only [Memory.write] at h
    split at h
    · split at h
      · exact .inr h
      · exact (List.mem_cons.mp h).imp id id
    · split at h
      · split at h
        · exact .inr (List.mem_cons_of_mem _ h)
        · exact (List.mem_cons.mp h).imp id (List.mem_cons_of_mem _)
      · rcases List.mem_cons.mp h with h | h
        · exact .inr (h ▸ List.mem_cons_self)
        · exact (ih h).imp id (List.mem_cons_of_mem _)

theorem write_below (m : Memory) {n a : Nat} (v : Byte) (hm : m.below n = true) (ha : a < n) :
    Memory.below n (m.write a v) = true := by
  unfold Memory.below at hm ⊢
  rw [List.all_eq_true] at hm ⊢
  intro cell hc
  rcases mem_write m a v cell hc with rfl | h
  · exact decide_eq_true ha
  · exact hm cell h

/-- Equal contents are equal data: two canonical memories that read alike everywhere are one list. -/
theorem ext_of_wfFrom (m n : Memory) {lo : Nat} (hm : Memory.wfFrom lo m = true)
    (hn : Memory.wfFrom lo n = true) (h : ∀ a, Memory.read m a = Memory.read n a) : m = n := by
  induction m generalizing n lo with
  | nil =>
    cases n with
    | nil => rfl
    | cons cell n =>
      obtain ⟨c, w⟩ := cell
      simp only [Memory.wfFrom, Bool.and_eq_true, bne_iff_ne] at hn
      have := h c
      simp only [Memory.read, if_pos] at this
      exact absurd this.symm hn.1.2
  | cons cell m ih =>
    obtain ⟨c, w⟩ := cell
    have hm' := hm
    simp only [Memory.wfFrom, Bool.and_eq_true, decide_eq_true_eq, bne_iff_ne] at hm
    obtain ⟨⟨hc, hw⟩, hrest⟩ := hm
    cases n with
    | nil =>
      have := h c
      simp only [Memory.read, if_pos] at this
      exact absurd this hw
    | cons cell n =>
      obtain ⟨d, u⟩ := cell
      have hn' := hn
      simp only [Memory.wfFrom, Bool.and_eq_true, decide_eq_true_eq, bne_iff_ne] at hn
      obtain ⟨⟨hd, hu⟩, hnrest⟩ := hn
      have hcd : c = d := by
        rcases Nat.lt_trichotomy c d with hlt | heq | hgt
        · have := h c
          simp only [Memory.read, if_pos, if_neg (Nat.ne_of_lt hlt)] at this
          rw [read_below_lo n hnrest (by omega)] at this
          exact absurd this hw
        · exact heq
        · have := h d
          simp only [Memory.read, if_pos, if_neg (Nat.ne_of_lt hgt)] at this
          rw [read_below_lo m hrest (by omega)] at this
          exact absurd this.symm hu
      subst hcd
      have hwu : w = u := by simpa [Memory.read] using h c
      subst hwu
      refine congrArg _ (ih n hrest hnrest fun a => ?_)
      by_cases hac : a = c
      · subst hac
        rw [read_below_lo m hrest (by omega), read_below_lo n hnrest (by omega)]
      · simpa [Memory.read, hac] using h a

theorem ext_of_wf (m n : Memory) (hm : m.wf = true) (hn : n.wf = true)
    (h : ∀ a, Memory.read m a = Memory.read n a) : m = n := ext_of_wfFrom m n hm hn h

/-! ## An image -/

theorem wfFrom_mono (m : Memory) {lo lo' : Nat} (hm : Memory.wfFrom lo m = true) (h : lo' ≤ lo) :
    Memory.wfFrom lo' m = true := by
  cases m with
  | nil => rfl
  | cons cell m =>
    obtain ⟨c, w⟩ := cell
    simp only [Memory.wfFrom, Bool.and_eq_true, decide_eq_true_eq] at hm ⊢
    exact ⟨⟨by omega, hm.1.2⟩, hm.2⟩

theorem ofBytesFrom_wfFrom (n : Nat) (vs : List Byte) :
    Memory.wfFrom n (Memory.ofBytesFrom n vs) = true := by
  induction vs generalizing n with
  | nil => rfl
  | cons v vs ih =>
    simp only [Memory.ofBytesFrom]
    split
    · exact wfFrom_mono _ (ih (n + 1)) (by omega)
    · rename_i hv
      simp only [Memory.wfFrom, Bool.and_eq_true, decide_eq_true_eq, bne_iff_ne]
      exact ⟨⟨Nat.le_refl n, hv⟩, ih (n + 1)⟩

theorem ofBytesFrom_below (n : Nat) (vs : List Byte) :
    Memory.below (n + vs.length) (Memory.ofBytesFrom n vs) = true := by
  induction vs generalizing n with
  | nil => rfl
  | cons v vs ih =>
    have hlen : n + (v :: vs).length = n + 1 + vs.length := by simp; omega
    rw [hlen]
    simp only [Memory.ofBytesFrom]
    split
    · exact ih (n + 1)
    · simp only [Memory.below, List.all_cons, Bool.and_eq_true, decide_eq_true_eq]
      exact ⟨by omega, ih (n + 1)⟩

theorem read_ofBytesFrom (n i : Nat) (vs : List Byte) :
    (Memory.ofBytesFrom n vs).read (n + i) = vs.getD i Memory.unlisted := by
  induction vs generalizing n i with
  | nil => rfl
  | cons v vs ih =>
    simp only [Memory.ofBytesFrom]
    cases i with
    | zero =>
      split
      · rename_i hv
        rw [read_below_lo _ (ofBytesFrom_wfFrom (n + 1) vs) (by omega)]
        simp [hv]
      · simp [Memory.read]
    | succ i =>
      have hni : n + (i + 1) = n + 1 + i := by omega
      split
      · rw [hni, ih]; simp
      · simp only [Memory.read]
        rw [if_neg (by omega), hni, ih]; simp

/-- The image of zero bytes lists nothing: State.reset's memory is the one `load` builds from it. -/
theorem ofBytesFrom_replicate (n k : Nat) :
    Memory.ofBytesFrom n (List.replicate k Memory.unlisted) = [] := by
  induction k generalizing n with
  | zero => rfl
  | succ k ih => simp [List.replicate_succ, Memory.ofBytesFrom, ih]

end MemoryLaws

/-! ## One byte of the state -/

theorem State.peek_poke_same (s : State) (a : Word) (v : Byte) (h : s.mem.wf = true) :
    (s.poke a v).peek a = v := MemoryLaws.read_write_same s.mem a.toNat v h

theorem State.peek_poke_other (s : State) {a b : Word} (v : Byte) (h : b ≠ a) :
    (s.poke a v).peek b = s.peek b :=
  MemoryLaws.read_write_other s.mem v fun he => h (BitVec.eq_of_toNat_eq he)

theorem State.poke_wf (s : State) (a : Word) (v : Byte) (h : s.mem.wf = true) :
    (s.poke a v).mem.wf = true := MemoryLaws.write_wf s.mem a.toNat v h

end Sys2Proof.Machine
end

