-- ==== Sys2Proof/Laws/Ops.lean ====
section
/-! SUPPORT. For each shared operation, what it does when its accesses are in range, and once everything
it can do: if it answers a next state or a fault, then one of these cases holds. -/

namespace Sys2Proof.Machine

variable {s t : State} {f : Fault} {r : Refusal}

/-! ## One range check -/

theorem State.check_of_inRange {k : AccessKind} {a : Word} {rest : Result} (h : s.inRange a = true) :
    s.check k a rest = rest := by simp [State.check, h]

theorem State.check_of_not_inRange {k : AccessKind} {a : Word} {rest : Result}
    (h : s.inRange a = false) : s.check k a rest = raiseFault k a := by simp [State.check, h]

theorem State.check_eq_next {k : AccessKind} {a : Word} {rest : Result} :
    s.check k a rest = .next t ↔ s.inRange a = true ∧ rest = .next t := by
  unfold State.check raiseFault; split <;> simp_all

theorem State.check_eq_fault {k : AccessKind} {a : Word} {rest : Result} :
    s.check k a rest = .fault f ↔
      (s.inRange a = false ∧ f = .outOfRange k a) ∨ (s.inRange a = true ∧ rest = .fault f) := by
  unfold State.check raiseFault
  split <;> simp_all [@eq_comm _ f]

theorem State.check_eq_refused {k : AccessKind} {a : Word} {rest : Result} :
    s.check k a rest = .refused r ↔ s.inRange a = true ∧ rest = .refused r := by
  unfold State.check raiseFault; split <;> simp_all

/-! ## Accesses that go on -/

theorem State.fetchByte_eq_next {a : Word} {k : Byte → Result} :
    s.fetchByte a k = .next t ↔ s.inRange a = true ∧ k (s.peek a) = .next t := State.check_eq_next

theorem State.load8_eq_next {a : Word} {k : Byte → Result} :
    s.load8 a k = .next t ↔ s.inRange a = true ∧ k (s.peek a) = .next t := State.check_eq_next

theorem State.load16_eq_next {a : Word} {k : Word → Result} :
    s.load16 a k = .next t ↔ (s.inRange a = true ∧ s.inRange (a + 1) = true) ∧
      k (joinBytes (s.peek (a + 1)) (s.peek a)) = .next t := by
  simp [State.load16, State.check_eq_next, and_assoc]

theorem State.store8_eq_next {a : Word} {v : Byte} {k : State → Result} :
    s.store8 a v k = .next t ↔ s.inRange a = true ∧ k (s.poke a v) = .next t := State.check_eq_next

theorem State.store16_eq_next {a v : Word} {k : State → Result} :
    s.store16 a v k = .next t ↔ (s.inRange a = true ∧ s.inRange (a + 1) = true) ∧
      k ((s.poke a (loByte v)).poke (a + 1) (hiByte v)) = .next t := by
  simp [State.store16, State.check_eq_next, and_assoc]

theorem State.push16_eq_next {v : Word} {k : State → Result} :
    s.push16 v k = .next t ↔ (s.inRange (s.sp - 1) = true ∧ s.inRange (s.sp - 2) = true) ∧
      k (((s.poke (s.sp - 1) (hiByte v)).poke (s.sp - 2) (loByte v)).setSp (s.sp - 2)) = .next t := by
  simp [State.push16, State.check_eq_next, and_assoc]

theorem State.pop16_eq_next {k : Word → State → Result} :
    s.pop16 k = .next t ↔ (s.inRange s.sp = true ∧ s.inRange (s.sp + 1) = true) ∧
      k (joinBytes (s.peek (s.sp + 1)) (s.peek s.sp)) (s.setSp (s.sp + 2)) = .next t :=
  State.load16_eq_next

/-! ## Accesses that fault: the first address out of range is reported (60_exceptions.md R334) -/

theorem State.load8_eq_fault {a : Word} {k : Byte → Result} :
    s.load8 a k = .fault f ↔ (s.inRange a = false ∧ f = .outOfRange .read a) ∨
      (s.inRange a = true ∧ k (s.peek a) = .fault f) := State.check_eq_fault

theorem State.store8_eq_fault {a : Word} {v : Byte} {k : State → Result} :
    s.store8 a v k = .fault f ↔ (s.inRange a = false ∧ f = .outOfRange .write a) ∨
      (s.inRange a = true ∧ k (s.poke a v) = .fault f) := State.check_eq_fault

theorem State.fetchByte_eq_fault {a : Word} {k : Byte → Result} :
    s.fetchByte a k = .fault f ↔ (s.inRange a = false ∧ f = .outOfRange .fetch a) ∨
      (s.inRange a = true ∧ k (s.peek a) = .fault f) := State.check_eq_fault

/-! ## The ends of an instruction -/

@[simp] theorem State.finish_eq_next {len : Nat} : s.finish len = .next t ↔ s.advance len = t := by
  simp [State.finish]

theorem State.jumpIf_eq {taken : Bool} {target : Word} :
    s.jumpIf taken target = .next (s.setPc (if taken then target else s.nextPc 3)) := by
  cases taken <;> rfl

theorem State.callTo_eq_next {len : Nat} {target : Word} :
    s.callTo len target = .next t ↔ (s.inRange (s.sp - 1) = true ∧ s.inRange (s.sp - 2) = true) ∧
      t = ((((s.poke (s.sp - 1) (hiByte (s.nextPc len))).poke (s.sp - 2)
        (loByte (s.nextPc len))).setSp (s.sp - 2)).setPc target) := by
  simp [State.callTo, State.push16_eq_next, @eq_comm _ t]

theorem State.popPc_eq_next :
    s.popPc = .next t ↔ (s.inRange s.sp = true ∧ s.inRange (s.sp + 1) = true) ∧
      t = (s.setSp (s.sp + 2)).setPc (joinBytes (s.peek (s.sp + 1)) (s.peek s.sp)) := by
  simp [State.popPc, State.pop16_eq_next, @eq_comm _ t]

theorem State.callIf_eq_next {taken : Bool} {target : Word} :
    s.callIf taken target = .next t ↔ (taken = true ∧ s.callTo 3 target = .next t) ∨
      (taken = false ∧ t = s.advance 3) := by
  cases taken <;> simp [State.callIf, @eq_comm _ t]

theorem State.returnIf_eq_next {taken : Bool} :
    s.returnIf taken = .next t ↔ (taken = true ∧ s.popPc = .next t) ∨
      (taken = false ∧ t = s.advance 1) := by
  cases taken <;> simp [State.returnIf, @eq_comm _ t]

/-! ## The same as eliminations: from a next state to the state it is -/

theorem next_inj {u : State} (h : (Host.Outcome.next u : Result) = .next t) : u = t := by
  cases h; rfl

theorem State.next_of_check {k : AccessKind} {a : Word} {rest : Result}
    (h : s.check k a rest = .next t) : rest = .next t := (State.check_eq_next.1 h).2

theorem State.jumpIf_cases {taken : Bool} {target : Word} (h : s.jumpIf taken target = .next t) :
    (taken = true ∧ t = s.setPc target) ∨ (taken = false ∧ t = s.advance 3) := by
  rw [State.jumpIf_eq] at h
  cases taken
  · exact .inr ⟨rfl, (next_inj h).symm⟩
  · exact .inl ⟨rfl, (next_inj h).symm⟩

theorem State.callIf_cases {taken : Bool} {target : Word} (h : s.callIf taken target = .next t) :
    (taken = true ∧ t = ((((s.poke (s.sp - 1) (hiByte (s.nextPc 3))).poke (s.sp - 2)
      (loByte (s.nextPc 3))).setSp (s.sp - 2)).setPc target)) ∨
    (taken = false ∧ t = s.advance 3) := by
  rcases State.callIf_eq_next.1 h with ⟨ht, h⟩ | h
  · exact .inl ⟨ht, (State.callTo_eq_next.1 h).2⟩
  · exact .inr h

theorem State.returnIf_cases {taken : Bool} (h : s.returnIf taken = .next t) :
    (taken = true ∧
      t = (s.setSp (s.sp + 2)).setPc (joinBytes (s.peek (s.sp + 1)) (s.peek s.sp))) ∨
    (taken = false ∧ t = s.advance 1) := by
  rcases State.returnIf_eq_next.1 h with ⟨ht, h⟩ | h
  · exact .inl ⟨ht, (State.popPc_eq_next.1 h).2⟩
  · exact .inr h

/-! ## Bytes that are not one another -/

/-- The two bytes below the top of the stack are different bytes. -/
theorem sub_one_ne_sub_two (v : Word) : v - 1 ≠ v - 2 := by bv_omega

/-- A byte and the byte after it, wrapping, are different bytes. -/
theorem add_one_ne (v : Word) : v + 1 ≠ v := by bv_omega

end Sys2Proof.Machine
end

