-- ==== Sys2Proof/Laws/Exec.lean ====
section
/-! SUPPORT. What every instruction can do, said once over all of them: to the parameters, to `status`, and
to memory. -/

namespace Sys2Proof.Machine

variable {s t : State} {i : Instr}

/-- All that an instruction can have done to memory: nothing, one byte in range, or two bytes in range. -/
inductive MemoryEffect (s t : State) : Prop where
  | none (h : t.mem = s.mem)
  | one (a : Word) (v : Byte) (ha : s.inRange a = true) (h : t.mem = (s.poke a v).mem)
  | two (a : Word) (v : Byte) (b : Word) (w : Byte) (ha : s.inRange a = true)
      (hb : s.inRange b = true) (h : t.mem = ((s.poke a v).poke b w).mem)

/-- All that an instruction can have done to the parameters, `status` and memory. -/
structure ControlEffect (i : Instr) (s t : State) : Prop where
  cfg : t.cfg = s.cfg
  status : i ≠ .hlt → t.status = s.status
  halt : i = .hlt → t.status = .halted
  mem : MemoryEffect s t

theorem exec_control (h : exec i s = .next t) : ControlEffect i s t := by
  cases i
  all_goals first | (rename Pair => pr; cases pr) | skip
  all_goals first
    | (replace h := next_inj h; subst h
       exact ⟨rfl, fun _ => rfl, nofun, .none rfl⟩)
    | (replace h := next_inj h; subst h
       exact ⟨rfl, fun hne => absurd rfl hne, fun _ => rfl, .none rfl⟩)
    | (have ha := (State.check_eq_next.1 h).1
       replace h := next_inj (State.next_of_check h); subst h
       first
       | exact ⟨rfl, fun _ => rfl, nofun, .none rfl⟩
       | exact ⟨rfl, fun _ => rfl, nofun, .one _ _ ha rfl⟩)
    | (have ha := (State.check_eq_next.1 h).1
       replace h := State.next_of_check h
       have hb := (State.check_eq_next.1 h).1
       replace h := next_inj (State.next_of_check h); subst h
       first
       | exact ⟨rfl, fun _ => rfl, nofun, .none rfl⟩
       | exact ⟨rfl, fun _ => rfl, nofun, .two _ _ _ _ ha hb rfl⟩)
    | (obtain ⟨-, rfl⟩ | ⟨-, rfl⟩ := State.returnIf_cases h <;>
       exact ⟨rfl, fun _ => rfl, nofun, .none rfl⟩)
    | (obtain ⟨-, rfl⟩ | ⟨-, rfl⟩ := State.jumpIf_cases h <;>
       exact ⟨rfl, fun _ => rfl, nofun, .none rfl⟩)
    | (rcases State.callIf_eq_next.1 h with ⟨-, h⟩ | ⟨-, rfl⟩
       · obtain ⟨⟨ha, hb⟩, rfl⟩ := State.callTo_eq_next.1 h
         exact ⟨rfl, fun _ => rfl, nofun, .two _ _ _ _ ha hb rfl⟩
       · exact ⟨rfl, fun _ => rfl, nofun, .none rfl⟩)

theorem MemoryEffect.wf (h : MemoryEffect s t) (hs : s.mem.wf = true) : t.mem.wf = true := by
  cases h with
  | none h => exact h ▸ hs
  | one a v _ h => exact h ▸ State.poke_wf s a v hs
  | two a v b w _ _ h => exact h ▸ State.poke_wf _ b w (State.poke_wf s a v hs)

theorem MemoryEffect.below (h : MemoryEffect s t) (hs : s.mem.below s.cfg.memSize = true) :
    t.mem.below s.cfg.memSize = true := by
  cases h with
  | none h => exact h ▸ hs
  | one a v ha h => exact h ▸ MemoryLaws.write_below _ v hs ((State.inRange_iff s a).1 ha)
  | two a v b w ha hb h =>
    exact h ▸ MemoryLaws.write_below _ w
      (MemoryLaws.write_below _ v hs ((State.inRange_iff s a).1 ha)) ((State.inRange_iff s b).1 hb)

end Sys2Proof.Machine
end

