-- ==== Sys2Proof/Laws/Step.lean ====
section
/-! SUPPORT. What a fetch and a step can do, said once. -/

namespace Sys2Proof.Machine

variable {s t : State}

/-- Where the `len` bytes of the instruction at `PC` lie in memory. -/
def State.fetchInRange (s : State) : Format → Bool
  | .f1 => s.inRange s.pc
  | .f2 => s.inRange s.pc && s.inRange (s.pc + 1)
  | .f3 => s.inRange s.pc && s.inRange (s.pc + 1) && s.inRange (s.pc + 2)

/-- The format of the instruction at `PC`. -/
def State.currentFormat (s : State) : Format := opcodeFormat (s.opcodeOf (s.peek s.pc))

/-- The current instruction from all three bytes: the operand bytes its format lacks do not matter. -/
theorem State.currentInstr_eq : s.currentInstr =
    decodeOp (s.opcodeOf (s.peek s.pc)) (s.peek (s.pc + 1)) (s.peek (s.pc + 2)) := by
  unfold State.currentInstr
  simp only
  cases h : opcodeFormat (s.opcodeOf (s.peek s.pc)) <;> simp only
  · exact (decodeOp_of_f1 _ _ h).symm
  · exact (decodeOp_of_f2 _ _ h).symm

theorem State.currentInstr_format : s.currentInstr.format = s.currentFormat := by
  rw [State.currentInstr_eq, decodeOp_format]
  rfl

theorem State.fetchInstr_of_inRange {k : Instr → Result} (h : s.fetchInRange s.currentFormat = true) :
    s.fetchInstr k = k s.currentInstr := by
  unfold State.fetchInstr State.fetchByte State.currentInstr State.fetchOperands
  unfold State.fetchInRange State.currentFormat at h
  cases hf : opcodeFormat (s.opcodeOf (s.peek s.pc)) <;>
    simp_all [State.fetchByte, State.check_of_inRange]

theorem State.fetchInstr_eq_next {k : Instr → Result} :
    s.fetchInstr k = .next t ↔
      s.fetchInRange s.currentFormat = true ∧ k s.currentInstr = .next t := by
  unfold State.fetchInstr State.currentInstr State.fetchOperands State.fetchInRange State.currentFormat
  cases hf : opcodeFormat (s.opcodeOf (s.peek s.pc)) <;>
    simp [State.fetchByte_eq_next, hf, and_assoc]

theorem step_of_running (h : s.status = .running) : step s = s.fetchInstr fun i => exec i s := by
  simp [step, State.dispatch, h]

theorem step_of_inRange (hs : s.status = .running) (h : s.fetchInRange s.currentFormat = true) :
    step s = exec s.currentInstr s := by
  rw [step_of_running hs, State.fetchInstr_of_inRange h]

theorem step_of_halted (h : s.status = .halted) : step s = .next s := by
  simp [step, State.dispatch, h]

/-- A step in `Faulted` repeats the fault of the same state taken as `Running`. -/
theorem step_of_faulted (h : s.status = .faulted) :
    step s = repeatFault (step (s.setStatus .running)) := by
  simp [step, State.dispatch, h]

theorem repeatFault_eq_fault {r : Result} {f : Fault} : repeatFault r = .fault f ↔ r = .fault f := by
  cases r <;> simp [repeatFault]

theorem repeatFault_ne_next {r : Result} : repeatFault r ≠ .next t := by
  cases r <;> simp [repeatFault]

/-- Entering the fault a running machine raised and stepping again gives that fault again. -/
theorem step_enterFault {f : Fault} (h : step s = .fault f) : step s.enterFault = .fault f := by
  cases hs : s.status with
  | running =>
    have hrun : s.enterFault.setStatus .running = s := by
      show { s with status := .running } = s
      rw [← hs]
    rw [step_of_faulted rfl, hrun, repeatFault_eq_fault]
    exact h
  | halted => simp [step_of_halted hs] at h
  | faulted =>
    have hself : s.enterFault = s := by
      show { s with status := .faulted } = s
      rw [← hs]
    rw [hself]
    exact h

/-- Everything a step that answers a next state can have done. -/
theorem step_eq_next : step s = .next t ↔
    (s.status = .halted ∧ t = s) ∨
    (s.status = .running ∧ s.fetchInRange s.currentFormat = true ∧ exec s.currentInstr s = .next t) := by
  cases hs : s.status with
  | running => simp [step_of_running hs, State.fetchInstr_eq_next]
  | halted => simp [step_of_halted hs, @eq_comm _ s t]
  | faulted => simp [step_of_faulted hs, repeatFault_ne_next]

/-- One more step at the front of a run. -/
theorem run_succ (h : step s = .next t) (k : Nat) :
    Sys2Proof.core.run (k + 1) s = Sys2Proof.core.run k t := by
  have hstep : Sys2Proof.core.step s = .next t := h
  simp only [Host.Core.run, hstep]

end Sys2Proof.Machine
end

