-- ==== Sys2Proof/Tests/Slice0.lean ====
section
/-! SUPPORT. The model's own tests: ill-formed terms refused, the opcode map of the spec row by row, one or
two single steps for each instruction, and for every statement with hypotheses a concrete state that meets
all of them. Expected results are the spec's (30_encoding.md R101; 95_test_vectors.md Part 2 and the rules'
own examples), not the model's answers. -/

namespace Sys2Proof.Tests

open Sys2Proof.Machine Sys2Proof.Spec

/-! ## Well-formedness: each ill-formed term is refused (30_encoding.md R92, R94, R100) -/

theorem test_wf_ldax_hl : (Instr.ldax .hl).wf = false := by decide
theorem test_wf_ldax_sp : (Instr.ldax .sp).wf = false := by decide
theorem test_wf_stax_hl : (Instr.stax .hl).wf = false := by decide
theorem test_wf_stax_sp : (Instr.stax .sp).wf = false := by decide
theorem test_wf_push_sp : (Instr.push .sp).wf = false := by decide
theorem test_wf_pop_sp : (Instr.pop .sp).wf = false := by decide
theorem test_wf_undefLow_0 : (Instr.undefLow 0).wf = false := by decide
theorem test_wf_accepts : (Instr.ldax .de).wf = true ∧ (Instr.push .hl).wf = true ∧
    (Instr.undefLow 7).wf = true := by decide

/-! ## The opcode map (30_encoding.md R101), one row of 16 bytes each, with operand bytes 34 12 -/

/-- The instructions of one row of the map. -/
def decodeRow (first : Nat) : List Instr :=
  (List.range 16).map fun n => decodeOp (BitVec.ofNat 8 (first + n)) 0x34 0x12

theorem test_decode_row_0x : decodeRow 0x00 =
    [.nop, .lxi .bc 0x1234, .stax .bc, .inx .bc, .inrR .b, .dcrR .b, .mviR .b 0x34, .rlc,
      .undefLow 1, .dad .bc, .ldax .bc, .dcx .bc, .inrR .c, .dcrR .c, .mviR .c 0x34, .rrc] := by decide
theorem test_decode_row_1x : decodeRow 0x10 =
    [.undefLow 2, .lxi .de 0x1234, .stax .de, .inx .de, .inrR .d, .dcrR .d, .mviR .d 0x34, .ral,
      .undefLow 3, .dad .de, .ldax .de, .dcx .de, .inrR .e, .dcrR .e, .mviR .e 0x34, .rar] := by decide
theorem test_decode_row_2x : decodeRow 0x20 =
    [.undefLow 4, .lxi .hl 0x1234, .shld 0x1234, .inx .hl, .inrR .h, .dcrR .h, .mviR .h 0x34,
      .daa, .undefLow 5, .dad .hl, .lhld 0x1234, .dcx .hl, .inrR .l, .dcrR .l, .mviR .l 0x34,
      .cma] := by decide
theorem test_decode_row_3x : decodeRow 0x30 =
    [.undefLow 6, .lxi .sp 0x1234, .sta 0x1234, .inx .sp, .inrM, .dcrM, .mviM 0x34, .stc,
      .undefLow 7, .dad .sp, .lda 0x1234, .dcx .sp, .inrR .a, .dcrR .a, .mviR .a 0x34, .cmc] := by decide
theorem test_decode_row_4x : decodeRow 0x40 =
    [.movRR .b .b, .movRR .b .c, .movRR .b .d, .movRR .b .e, .movRR .b .h, .movRR .b .l,
      .movRM .b, .movRR .b .a, .movRR .c .b, .movRR .c .c, .movRR .c .d, .movRR .c .e,
      .movRR .c .h, .movRR .c .l, .movRM .c, .movRR .c .a] := by decide
theorem test_decode_row_5x : decodeRow 0x50 =
    [.movRR .d .b, .movRR .d .c, .movRR .d .d, .movRR .d .e, .movRR .d .h, .movRR .d .l,
      .movRM .d, .movRR .d .a, .movRR .e .b, .movRR .e .c, .movRR .e .d, .movRR .e .e,
      .movRR .e .h, .movRR .e .l, .movRM .e, .movRR .e .a] := by decide
theorem test_decode_row_6x : decodeRow 0x60 =
    [.movRR .h .b, .movRR .h .c, .movRR .h .d, .movRR .h .e, .movRR .h .h, .movRR .h .l,
      .movRM .h, .movRR .h .a, .movRR .l .b, .movRR .l .c, .movRR .l .d, .movRR .l .e,
      .movRR .l .h, .movRR .l .l, .movRM .l, .movRR .l .a] := by decide
theorem test_decode_row_7x : decodeRow 0x70 =
    [.movMR .b, .movMR .c, .movMR .d, .movMR .e, .movMR .h, .movMR .l, .hlt, .movMR .a,
      .movRR .a .b, .movRR .a .c, .movRR .a .d, .movRR .a .e, .movRR .a .h, .movRR .a .l,
      .movRM .a, .movRR .a .a] := by decide
theorem test_decode_row_8x : decodeRow 0x80 =
    [.addR .b, .addR .c, .addR .d, .addR .e, .addR .h, .addR .l, .addM, .addR .a, .adcR .b,
      .adcR .c, .adcR .d, .adcR .e, .adcR .h, .adcR .l, .adcM, .adcR .a] := by decide
theorem test_decode_row_9x : decodeRow 0x90 =
    [.subR .b, .subR .c, .subR .d, .subR .e, .subR .h, .subR .l, .subM, .subR .a, .sbbR .b,
      .sbbR .c, .sbbR .d, .sbbR .e, .sbbR .h, .sbbR .l, .sbbM, .sbbR .a] := by decide
theorem test_decode_row_Ax : decodeRow 0xA0 =
    [.anaR .b, .anaR .c, .anaR .d, .anaR .e, .anaR .h, .anaR .l, .anaM, .anaR .a, .xraR .b,
      .xraR .c, .xraR .d, .xraR .e, .xraR .h, .xraR .l, .xraM, .xraR .a] := by decide
theorem test_decode_row_Bx : decodeRow 0xB0 =
    [.oraR .b, .oraR .c, .oraR .d, .oraR .e, .oraR .h, .oraR .l, .oraM, .oraR .a, .cmpR .b,
      .cmpR .c, .cmpR .d, .cmpR .e, .cmpR .h, .cmpR .l, .cmpM, .cmpR .a] := by decide
theorem test_decode_row_Cx : decodeRow 0xC0 =
    [.rnz, .pop .bc, .jnz 0x1234, .jmp 0x1234, .cnz 0x1234, .push .bc, .adi 0x34, .rst 0, .rz,
      .ret, .jz 0x1234, .undefHigh .cb, .cz 0x1234, .call 0x1234, .aci 0x34, .rst 1] := by decide
theorem test_decode_row_Dx : decodeRow 0xD0 =
    [.rnc, .pop .de, .jnc 0x1234, .out 0x34, .cnc 0x1234, .push .de, .sui 0x34, .rst 2, .rc,
      .undefHigh .d9, .jc 0x1234, .inp 0x34, .cc 0x1234, .undefHigh .dd, .sbi 0x34, .rst 3] := by decide
theorem test_decode_row_Ex : decodeRow 0xE0 =
    [.rpo, .pop .hl, .jpo 0x1234, .xthl, .cpo 0x1234, .push .hl, .ani 0x34, .rst 4, .rpe, .pchl,
      .jpe 0x1234, .xchg, .cpe 0x1234, .undefHigh .ed, .xri 0x34, .rst 5] := by decide
theorem test_decode_row_Fx : decodeRow 0xF0 =
    [.rp, .popPsw, .jp 0x1234, .di, .cp 0x1234, .pushPsw, .ori 0x34, .rst 6, .rm, .sphl,
      .jm 0x1234, .ei, .cm 0x1234, .undefHigh .fd, .cpi 0x34, .rst 7] := by decide
/-! ## Decoding refuses by name, and only for a missing byte -/

theorem test_decode_empty : decode [] = .error .noOpcode := rfl
theorem test_decode_short_f2 : decode [0x3E] = .error (.missingOperand 0x3E) := rfl
theorem test_decode_short_f3 : decode [0xC3] = .error (.missingOperand 0xC3) := rfl
theorem test_decode_short_f3_one : decode [0xC3, 0x00] = .error (.missingOperand 0xC3) := rfl
theorem test_table_word : decodeTableWord 8 0x21 = some (.lxi .hl 0x0000) ∧
    decodeTableWord 24 0x123421 = some (.lxi .hl 0x1234) := by decide

/-! ## Single steps (95_test_vectors.md Part 2) -/

end Sys2Proof.Tests

namespace Sys2Proof.Machine

/-- One flag written. -/
def State.flag (s : State) (n : FlagName) (v : Bool) : State :=
  match n with
  | .z => s.setFlags { s.flags with z := v }
  | .s => s.setFlags { s.flags with s := v }
  | .p => s.setFlags { s.flags with p := v }
  | .cy => s.setFlags { s.flags with cy := v }
  | .ac => s.setFlags { s.flags with ac := v }

/-- All flags, in the order of the vectors: `Z S P CY AC`. -/
def State.withFlags (s : State) (z sg p cy ac : Bool) : State :=
  s.setFlags { z := z, s := sg, p := p, cy := cy, ac := ac }

/-- The shift window of the vectors (`sh`). -/
def State.setShift (s : State) (v : Word) : State :=
  s.setIo { s.io with shift0 := loByte v, shift1 := hiByte v }

/-- The shift offset of the vectors (`off`). -/
def State.setOff (s : State) (v : BitVec 3) : State := s.setIo { s.io with offset := v }

end Sys2Proof.Machine

namespace Sys2Proof.Tests

open Sys2Proof.Machine Sys2Proof.Spec

/-- The vectors' start: everything 0, `PC = 0100`, `MEMSIZE = 10000`. -/
def st : State := { State.reset with pc := 0x100 }

/-- The same with `MEMSIZE = 4000`, for the fault vectors. -/
def st4 : State := { st with cfg := { memSize := 0x4000, undocAlias := .nop } }

/-- The same as `st` with `UNDOC_ALIAS = chip`. -/
def stChip : State := { st with cfg := { memSize := 0x10000, undocAlias := .chip } }

/-- `bytes` written from `PC` on. -/
def placed (bytes : List Byte) (s : State) : State :=
  bytes.zipIdx.foldl (fun u x => u.poke (s.pc + BitVec.ofNat 16 x.2) x.1) s

/-- The step from `s0` changed by `before`, with `bytes` at `PC`, gives that state changed by `after`. -/
def checkNext (s0 : State) (bytes : List Byte) (before after : State → State) : Bool :=
  match step (placed bytes (before s0)) with
  | .next t => decide (t = after (placed bytes (before s0)))
  | .fault _ | .refused _ => false

/-- The step faults with this kind and address. -/
def checkFault (s0 : State) (bytes : List Byte) (before : State → State) (kind : AccessKind)
    (addr : Word) : Bool :=
  match step (placed bytes (before s0)) with
  | .fault f => decide (f = .outOfRange kind addr)
  | .next _ | .refused _ => false

theorem test_MOV_41 : checkNext st [0x41]
    (fun s => (s.setReg .b 0x11).setReg .c 0x22)
    (fun s => (s.setReg .b 0x22).setPc 0x0101) =
      true := by decide
theorem test_MOV_7E : checkNext st [0x7E]
    (fun s => (s.setPair .hl 0x2050).poke 0x2050 0x9C)
    (fun s => (s.setReg .a 0x9C).setPc 0x0101) =
      true := by decide
theorem test_MOV_7E_b : checkFault st4 [0x7E]
    (fun s => s.setPair .hl 0x4000) .read 0x4000 = true := by decide
theorem test_MOV_77 : checkNext st [0x77]
    (fun s => (s.setReg .a 0x3D).setPair .hl 0x2050)
    (fun s => (s.poke 0x2050 0x3D).setPc 0x0101) =
      true := by decide
theorem test_MOV_77_b : checkFault st4 [0x77]
    (fun s => (s.setPair .hl 0xFFFF).setReg .a 0x01) .write 0xFFFF = true := by decide
theorem test_MVI_06 : checkNext st [0x06, 0xFF]
    (fun s => s)
    (fun s => (s.setReg .b 0xFF).setPc 0x0102) =
      true := by decide
theorem test_MVI_3E_b : checkFault st4 [0x3E]
    (fun s => (s.setPc 0x3FFF).poke 0x3FFF 0x3E) .fetch 0x4000 = true := by decide
theorem test_MVI_36 : checkNext st [0x36, 0x5A]
    (fun s => s.setPair .hl 0x3000)
    (fun s => (s.poke 0x3000 0x5A).setPc 0x0102) =
      true := by decide
theorem test_LXI_01 : checkNext st [0x01, 0x34, 0x12]
    (fun s => s)
    (fun s => ((s.setReg .b 0x12).setReg .c 0x34).setPc 0x0103) =
      true := by decide
theorem test_LDA_3A : checkNext st [0x3A, 0x00, 0x03]
    (fun s => s.poke 0x0300 0x7E)
    (fun s => (s.setReg .a 0x7E).setPc 0x0103) =
      true := by decide
theorem test_STA_32 : checkNext st [0x32, 0xB3, 0x05]
    (fun s => s.setReg .a 0x42)
    (fun s => (s.poke 0x05B3 0x42).setPc 0x0103) =
      true := by decide
theorem test_STA_32_b : checkFault st4 [0x32, 0x00, 0x40]
    (fun s => s.setReg .a 0x01) .write 0x4000 = true := by decide
theorem test_LHLD_2A : checkNext st [0x2A, 0xFF, 0xFF]
    (fun s => (s.poke 0xFFFF 0x34).poke 0x0000 0x12)
    (fun s => ((s.setReg .l 0x34).setReg .h 0x12).setPc 0x0103) =
      true := by decide
theorem test_LHLD_2A_b : checkFault st4 [0x2A, 0xFF, 0x3F]
    (fun s => s.setPair .hl 0x1234) .read 0x4000 = true := by decide
theorem test_SHLD_22 : checkNext st [0x22, 0xFF, 0xFF]
    (fun s => s.setPair .hl 0xABCD)
    (fun s => ((s.poke 0xFFFF 0xCD).poke 0x0000 0xAB).setPc 0x0103) =
      true := by decide
theorem test_SHLD_22_b : checkFault st4 [0x22, 0xFF, 0x3F]
    (fun s => s.setPair .hl 0x1234) .write 0x4000 = true := by decide
theorem test_LDAX_0A : checkNext st [0x0A]
    (fun s => (s.setPair .bc 0x938B).poke 0x938B 0x4F)
    (fun s => (s.setReg .a 0x4F).setPc 0x0101) =
      true := by decide
theorem test_LDAX_0A_b : checkFault st4 [0x0A]
    (fun s => s.setPair .bc 0x8000) .read 0x8000 = true := by decide
theorem test_STAX_02 : checkNext st [0x02]
    (fun s => (s.setReg .a 0x77).setPair .bc 0x3F16)
    (fun s => (s.poke 0x3F16 0x77).setPc 0x0101) =
      true := by decide
theorem test_STAX_12_b : checkFault st4 [0x12]
    (fun s => s.setPair .de 0x8000) .write 0x8000 = true := by decide
theorem test_XCHG_EB : checkNext st [0xEB]
    (fun s => (s.setPair .hl 0x00FF).setPair .de 0x3355)
    (fun s => ((((s.setReg .d 0x00).setReg .e 0xFF).setReg .h 0x33).setReg .l 0x55).setPc 0x0101) =
      true := by decide
theorem test_ADD_80 : checkNext st [0x80]
    (fun s => (s.setReg .a 0xFF).setReg .b 0x01)
    (fun s => ((s.setReg .a 0x00).setPc 0x0101).withFlags true false true true true) =
      true := by decide
theorem test_ADD_80_b : checkNext st [0x80]
    (fun s => ((s.setReg .a 0x00).setReg .b 0x00).flag .cy true)
    (fun s => ((s.setReg .a 0x00).setPc 0x0101).withFlags true false true false false) =
      true := by decide
theorem test_ADD_86 : checkNext st [0x86]
    (fun s => ((s.setReg .a 0x6C).poke 0x2000 0x2E).setPair .hl 0x2000)
    (fun s => ((s.setReg .a 0x9A).setPc 0x0101).withFlags false true true false true) =
      true := by decide
theorem test_ADD_86_b : checkFault st4 [0x86]
    (fun s => (s.setPair .hl 0x4000).setReg .a 0x05) .read 0x4000 = true := by decide
theorem test_ADI_C6 : checkNext st [0xC6, 0x42]
    (fun s => s.setReg .a 0x14)
    (fun s => ((s.setReg .a 0x56).setPc 0x0102).withFlags false false true false false) =
      true := by decide
theorem test_ADC_8F : checkNext st [0x8F]
    (fun s => (s.setReg .a 0x80).flag .cy true)
    (fun s => ((s.setReg .a 0x01).setPc 0x0101).withFlags false false false true false) =
      true := by decide
theorem test_ADC_89_b : checkNext st [0x89]
    (fun s => ((s.setReg .a 0x3D).setReg .c 0x42).flag .cy true)
    (fun s => ((s.setReg .a 0x80).setPc 0x0101).withFlags false true false false true) =
      true := by decide
theorem test_ADC_8E : checkNext st [0x8E]
    (fun s => (((s.setReg .a 0x10).setPair .hl 0x2000).poke 0x2000 0x20).flag .cy true)
    (fun s => ((s.setReg .a 0x31).setPc 0x0101).withFlags false false false false false) =
      true := by decide
theorem test_ACI_CE : checkNext st [0xCE, 0xBE]
    (fun s => (s.setReg .a 0x56).flag .cy false)
    (fun s => ((s.setReg .a 0x14).setPc 0x0102).withFlags false false true true true) =
      true := by decide
theorem test_ACI_CE_b : checkNext st [0xCE, 0x42]
    (fun s => (s.setReg .a 0x14).flag .cy true)
    (fun s => ((s.setReg .a 0x57).setPc 0x0102).withFlags false false false false false) =
      true := by decide
theorem test_SUB_90 : checkNext st [0x90]
    (fun s => (s.setReg .a 0x00).setReg .b 0x01)
    (fun s => ((s.setReg .a 0xFF).setPc 0x0101).withFlags false true true true false) =
      true := by decide
theorem test_SUB_97_b : checkNext st [0x97]
    (fun s => (s.setReg .a 0x3E).flag .cy true)
    (fun s => ((s.setReg .a 0x00).setPc 0x0101).withFlags true false true false true) =
      true := by decide
theorem test_SUB_96 : checkNext st [0x96]
    (fun s => ((s.setReg .a 0x3E).poke 0x2000 0x3E).setPair .hl 0x2000)
    (fun s => ((s.setReg .a 0x00).setPc 0x0101).withFlags true false true false true) =
      true := by decide
theorem test_SUI_D6 : checkNext st [0xD6, 0x01]
    (fun s => s.setReg .a 0x00)
    (fun s => ((s.setReg .a 0xFF).setPc 0x0102).withFlags false true true true false) =
      true := by decide
theorem test_SBB_98 : checkNext st [0x98]
    (fun s => ((s.setReg .a 0x10).setReg .b 0x0F).flag .cy true)
    (fun s => ((s.setReg .a 0x00).setPc 0x0101).withFlags true false true false false) =
      true := by decide
theorem test_SBB_98_b : checkNext st [0x98]
    (fun s => ((s.setReg .a 0x00).setReg .b 0xFF).flag .cy true)
    (fun s => ((s.setReg .a 0x00).setPc 0x0101).withFlags true false true true false) =
      true := by decide
theorem test_SBB_9E : checkNext st [0x9E]
    (fun s => (((s.setReg .a 0x00).setPair .hl 0x2000).poke 0x2000 0x00).flag .cy true)
    (fun s => ((s.setReg .a 0xFF).setPc 0x0101).withFlags false true true true false) =
      true := by decide
theorem test_SBI_DE : checkNext st [0xDE, 0x01]
    (fun s => (s.setReg .a 0x00).flag .cy false)
    (fun s => ((s.setReg .a 0xFF).setPc 0x0102).withFlags false true true true false) =
      true := by decide
theorem test_INR_3C : checkNext st [0x3C]
    (fun s => (s.setReg .a 0xFF).flag .cy true)
    (fun s => ((s.setReg .a 0x00).setPc 0x0101).withFlags true false true true true) =
      true := by decide
theorem test_INR_0C_b : checkNext st [0x0C]
    (fun s => s.setReg .c 0x99)
    (fun s => ((s.setReg .c 0x9A).setPc 0x0101).withFlags false true true false false) =
      true := by decide
theorem test_INR_34 : checkNext st [0x34]
    (fun s => ((s.setPair .hl 0x2000).poke 0x2000 0xFF).flag .cy true)
    (fun s => (((((s.poke 0x2000 0x00).setPc 0x0101).flag .z true).flag .s false).flag .p true).flag .ac true) =
      true := by decide
theorem test_INR_34_b : checkFault st4 [0x34]
    (fun s => (s.setPair .hl 0x4000).flag .z true) .read 0x4000 = true := by decide
theorem test_DCR_05 : checkNext st [0x05]
    (fun s => (s.setReg .b 0x00).flag .cy true)
    (fun s => ((s.setReg .b 0xFF).setPc 0x0101).withFlags false true true true false) =
      true := by decide
theorem test_DCR_0D_b : checkNext st [0x0D]
    (fun s => s.setReg .c 0x01)
    (fun s => ((s.setReg .c 0x00).setPc 0x0101).withFlags true false true false true) =
      true := by decide
theorem test_DCR_35 : checkNext st [0x35]
    (fun s => (s.setPair .hl 0x2000).poke 0x2000 0x40)
    (fun s => (((((s.poke 0x2000 0x3F).setPc 0x0101).flag .z false).flag .s false).flag .p true).flag .ac false) =
      true := by decide
theorem test_DCR_35_b : checkNext st [0x35]
    (fun s => (s.setPair .hl 0x2000).poke 0x2000 0x00)
    (fun s => (((((s.poke 0x2000 0xFF).setPc 0x0101).flag .z false).flag .s true).flag .p true).flag .ac false) =
      true := by decide
theorem test_INX_03 : checkNext st [0x03]
    (fun s => s.setPair .bc 0xFFFF)
    (fun s => (s.setPair .bc 0x0000).setPc 0x0101) =
      true := by decide
theorem test_INX_13_b : checkNext st [0x13]
    (fun s => s.setPair .de 0x38FF)
    (fun s => (s.setPair .de 0x3900).setPc 0x0101) =
      true := by decide
theorem test_DCX_0B : checkNext st [0x0B]
    (fun s => s.setPair .bc 0x0000)
    (fun s => (s.setPair .bc 0xFFFF).setPc 0x0101) =
      true := by decide
theorem test_DCX_2B_b : checkNext st [0x2B]
    (fun s => s.setPair .hl 0x9800)
    (fun s => (s.setPair .hl 0x97FF).setPc 0x0101) =
      true := by decide
theorem test_DAD_29 : checkNext st [0x29]
    (fun s => ((s.setPair .hl 0x8000).flag .z true).flag .s true)
    (fun s => ((s.setPair .hl 0x0000).setPc 0x0101).flag .cy true) =
      true := by decide
theorem test_DAD_09_b : checkNext st [0x09]
    (fun s => (s.setPair .bc 0x339F).setPair .hl 0xA17B)
    (fun s => ((s.setPair .hl 0xD51A).setPc 0x0101).flag .cy false) =
      true := by decide
theorem test_DAA_27 : checkNext st [0x27]
    (fun s => ((s.setReg .a 0x9B).flag .cy false).flag .ac false)
    (fun s => ((s.setReg .a 0x01).setPc 0x0101).withFlags false false false true true) =
      true := by decide
theorem test_DAA_27_b : checkNext st [0x27]
    (fun s => ((s.setReg .a 0x66).flag .cy true).flag .ac true)
    (fun s => ((s.setReg .a 0xCC).setPc 0x0101).withFlags false true true true false) =
      true := by decide
theorem test_ANA_A1 : checkNext st [0xA1]
    (fun s => (((s.setReg .a 0xFC).setReg .c 0x0F).flag .cy true).flag .ac true)
    (fun s => ((s.setReg .a 0x0C).setPc 0x0101).withFlags false false true false false) =
      true := by decide
theorem test_ANA_A6 : checkNext st [0xA6]
    (fun s => ((((s.setReg .a 0xFC).setPair .hl 0x2000).poke 0x2000 0x0F).flag .cy true).flag .ac true)
    (fun s => ((s.setReg .a 0x0C).setPc 0x0101).withFlags false false true false false) =
      true := by decide
theorem test_ANI_E6 : checkNext st [0xE6, 0x0F]
    (fun s => (s.setReg .a 0x3A).flag .cy true)
    (fun s => ((s.setReg .a 0x0A).setPc 0x0102).withFlags false false true false false) =
      true := by decide
theorem test_XRA_AF : checkNext st [0xAF]
    (fun s => ((s.setReg .a 0x5A).flag .cy true).flag .ac true)
    (fun s => ((s.setReg .a 0x00).setPc 0x0101).withFlags true false true false false) =
      true := by decide
theorem test_XRA_AE : checkNext st [0xAE]
    (fun s => ((s.setReg .a 0x55).setPair .hl 0x2000).poke 0x2000 0xFF)
    (fun s => ((s.setReg .a 0xAA).setPc 0x0101).withFlags false true true false false) =
      true := by decide
theorem test_XRI_EE : checkNext st [0xEE, 0x81]
    (fun s => (s.setReg .a 0x3B).flag .cy true)
    (fun s => ((s.setReg .a 0xBA).setPc 0x0102).withFlags false true false false false) =
      true := by decide
theorem test_ORA_B1 : checkNext st [0xB1]
    (fun s => ((s.setReg .a 0x33).setReg .c 0x0F).flag .cy true)
    (fun s => ((s.setReg .a 0x3F).setPc 0x0101).withFlags false false true false false) =
      true := by decide
theorem test_ORA_B6 : checkNext st [0xB6]
    (fun s => ((s.setReg .a 0x00).setPair .hl 0x2000).poke 0x2000 0x00)
    (fun s => ((s.setReg .a 0x00).setPc 0x0101).withFlags true false true false false) =
      true := by decide
theorem test_ORI_F6 : checkNext st [0xF6, 0x0F]
    (fun s => (s.setReg .a 0xB5).flag .cy true)
    (fun s => ((s.setReg .a 0xBF).setPc 0x0102).withFlags false true false false false) =
      true := by decide
theorem test_CMP_BB : checkNext st [0xBB]
    (fun s => (s.setReg .a 0x02).setReg .e 0x05)
    (fun s => ((s.setReg .a 0x02).setPc 0x0101).withFlags false true false true false) =
      true := by decide
theorem test_CMP_B8_b : checkNext st [0xB8]
    (fun s => ((s.setReg .a 0x37).setReg .b 0x37).flag .cy true)
    (fun s => ((s.setReg .a 0x37).setPc 0x0101).withFlags true false true false true) =
      true := by decide
theorem test_CMP_BE : checkNext st [0xBE]
    (fun s => ((s.setReg .a 0x02).setPair .hl 0x2000).poke 0x2000 0x05)
    (fun s => ((s.setReg .a 0x02).setPc 0x0101).withFlags false true false true false) =
      true := by decide
theorem test_CPI_FE : checkNext st [0xFE, 0x40]
    (fun s => s.setReg .a 0x02)
    (fun s => ((s.setReg .a 0x02).setPc 0x0102).withFlags false true false true true) =
      true := by decide
theorem test_CPI_FE_b : checkNext st [0xFE, 0x40]
    (fun s => s.setReg .a 0x4A)
    (fun s => ((s.setReg .a 0x4A).setPc 0x0102).withFlags false false true false true) =
      true := by decide
theorem test_RLC_07 : checkNext st [0x07]
    (fun s => ((((s.setReg .a 0x80).flag .z true).flag .s true).flag .p true).flag .ac true)
    (fun s => ((s.setReg .a 0x01).setPc 0x0101).withFlags true true true true true) =
      true := by decide
theorem test_RRC_0F : checkNext st [0x0F]
    (fun s => (s.setReg .a 0xF2).flag .cy true)
    (fun s => ((s.setReg .a 0x79).setPc 0x0101).withFlags false false false false false) =
      true := by decide
theorem test_RAL_17 : checkNext st [0x17]
    (fun s => (s.setReg .a 0xB5).flag .cy false)
    (fun s => ((s.setReg .a 0x6A).setPc 0x0101).withFlags false false false true false) =
      true := by decide
theorem test_RAR_1F : checkNext st [0x1F]
    (fun s => (s.setReg .a 0x6A).flag .cy true)
    (fun s => ((s.setReg .a 0xB5).setPc 0x0101).withFlags false false false false false) =
      true := by decide
theorem test_CMA_2F : checkNext st [0x2F]
    (fun s => ((s.setReg .a 0x51).flag .z true).flag .cy true)
    (fun s => ((s.setReg .a 0xAE).setPc 0x0101).withFlags true false false true false) =
      true := by decide
theorem test_CMC_3F : checkNext st [0x3F]
    (fun s => (s.setReg .a 0x11).flag .cy true)
    (fun s => ((s.setReg .a 0x11).setPc 0x0101).withFlags false false false false false) =
      true := by decide
theorem test_STC_37 : checkNext st [0x37]
    (fun s => (s.setReg .a 0x11).flag .cy false)
    (fun s => ((s.setReg .a 0x11).setPc 0x0101).withFlags false false false true false) =
      true := by decide
theorem test_JMP_C3 : checkNext st [0xC3, 0x00, 0x3E]
    (fun s => s)
    (fun s => s.setPc 0x3E00) =
      true := by decide
theorem test_JNZ_C2 : checkNext st [0xC2, 0x00, 0x20]
    (fun s => s.flag .z false)
    (fun s => s.setPc 0x2000) =
      true := by decide
theorem test_JNZ_C2_b : checkFault st4 [0xC2, 0x00]
    (fun s => (((s.setPc 0x3FFE).poke 0x3FFE 0xC2).poke 0x3FFF 0x00).flag .z true) .fetch 0x4000 = true := by decide
theorem test_JZ_CA : checkNext st [0xCA, 0x00, 0x20]
    (fun s => s.flag .z true)
    (fun s => s.setPc 0x2000) =
      true := by decide
theorem test_JNC_D2 : checkNext st [0xD2, 0x00, 0x20]
    (fun s => s.flag .cy true)
    (fun s => s.setPc 0x0103) =
      true := by decide
theorem test_JC_DA : checkNext st [0xDA, 0x00, 0x20]
    (fun s => s.flag .cy true)
    (fun s => s.setPc 0x2000) =
      true := by decide
theorem test_JPO_E2 : checkNext st [0xE2, 0x00, 0x20]
    (fun s => s.flag .p false)
    (fun s => s.setPc 0x2000) =
      true := by decide
theorem test_JPE_EA : checkNext st [0xEA, 0x00, 0x20]
    (fun s => s.flag .p false)
    (fun s => s.setPc 0x0103) =
      true := by decide
theorem test_JP_F2 : checkNext st [0xF2, 0x00, 0x20]
    (fun s => s.flag .s true)
    (fun s => s.setPc 0x0103) =
      true := by decide
theorem test_JM_FA : checkNext st [0xFA, 0x00, 0x20]
    (fun s => s.flag .s true)
    (fun s => s.setPc 0x2000) =
      true := by decide
theorem test_CALL_CD : checkNext st [0xCD, 0x34, 0x12]
    (fun s => s.setSp 0x2000)
    (fun s => (((s.poke 0x1FFF 0x01).poke 0x1FFE 0x03).setSp 0x1FFE).setPc 0x1234) =
      true := by decide
theorem test_CALL_CD_b : checkFault st4 [0xCD, 0x00, 0x02]
    (fun s => s.setSp 0x4001) .write 0x4000 = true := by decide
theorem test_CNZ_C4 : checkNext st [0xC4, 0x00, 0x30]
    (fun s => (s.setSp 0x2000).flag .z false)
    (fun s => (((s.poke 0x1FFF 0x01).poke 0x1FFE 0x03).setSp 0x1FFE).setPc 0x3000) =
      true := by decide
theorem test_CNZ_C4_b : checkNext st [0xC4, 0x00, 0x30]
    (fun s => (s.setSp 0x2000).flag .z true)
    (fun s => s.setPc 0x0103) =
      true := by decide
theorem test_CZ_CC : checkNext st [0xCC, 0x00, 0x30]
    (fun s => (s.setSp 0x2000).flag .z true)
    (fun s => (((s.poke 0x1FFF 0x01).poke 0x1FFE 0x03).setSp 0x1FFE).setPc 0x3000) =
      true := by decide
theorem test_CNC_D4 : checkNext st [0xD4, 0x00, 0x30]
    (fun s => (s.setSp 0x2000).flag .cy true)
    (fun s => s.setPc 0x0103) =
      true := by decide
theorem test_CC_DC : checkNext st [0xDC, 0x00, 0x30]
    (fun s => (s.setSp 0x2000).flag .cy true)
    (fun s => (((s.poke 0x1FFF 0x01).poke 0x1FFE 0x03).setSp 0x1FFE).setPc 0x3000) =
      true := by decide
theorem test_CPO_E4 : checkNext st [0xE4, 0x00, 0x30]
    (fun s => (s.setSp 0x2000).flag .p false)
    (fun s => (((s.poke 0x1FFF 0x01).poke 0x1FFE 0x03).setSp 0x1FFE).setPc 0x3000) =
      true := by decide
theorem test_CPE_EC : checkNext st [0xEC, 0x00, 0x30]
    (fun s => (s.setSp 0x2000).flag .p false)
    (fun s => s.setPc 0x0103) =
      true := by decide
theorem test_CP_F4 : checkNext st [0xF4, 0x00, 0x30]
    (fun s => (s.setSp 0x2000).flag .s true)
    (fun s => s.setPc 0x0103) =
      true := by decide
theorem test_CM_FC : checkNext st [0xFC, 0x00, 0x30]
    (fun s => (s.setSp 0x2000).flag .s false)
    (fun s => s.setPc 0x0103) =
      true := by decide
theorem test_RET_C9 : checkNext st [0xC9]
    (fun s => ((s.setSp 0x1FFE).poke 0x1FFE 0x03).poke 0x1FFF 0x01)
    (fun s => (s.setPc 0x0103).setSp 0x2000) =
      true := by decide
theorem test_RET_C9_b : checkFault st4 [0xC9]
    (fun s => s.setSp 0x4000) .read 0x4000 = true := by decide
theorem test_RNZ_C0 : checkNext st [0xC0]
    (fun s => (((s.setSp 0x1FFE).poke 0x1FFE 0x03).poke 0x1FFF 0x01).flag .z false)
    (fun s => (s.setPc 0x0103).setSp 0x2000) =
      true := by decide
theorem test_RNZ_C0_b : checkNext st [0xC0]
    (fun s => (((s.setSp 0x1FFE).poke 0x1FFE 0x03).poke 0x1FFF 0x01).flag .z true)
    (fun s => s.setPc 0x0101) =
      true := by decide
theorem test_RZ_C8 : checkNext st [0xC8]
    (fun s => (((s.setSp 0x1FFE).poke 0x1FFE 0x03).poke 0x1FFF 0x01).flag .z true)
    (fun s => (s.setPc 0x0103).setSp 0x2000) =
      true := by decide
theorem test_RNC_D0 : checkNext st [0xD0]
    (fun s => (((s.setSp 0x1FFE).poke 0x1FFE 0x03).poke 0x1FFF 0x01).flag .cy true)
    (fun s => s.setPc 0x0101) =
      true := by decide
theorem test_RC_D8 : checkNext st [0xD8]
    (fun s => (((s.setSp 0x1FFE).poke 0x1FFE 0x03).poke 0x1FFF 0x01).flag .cy true)
    (fun s => (s.setPc 0x0103).setSp 0x2000) =
      true := by decide
theorem test_RPO_E0 : checkNext st [0xE0]
    (fun s => (((s.setSp 0x1FFE).poke 0x1FFE 0x03).poke 0x1FFF 0x01).flag .p false)
    (fun s => (s.setPc 0x0103).setSp 0x2000) =
      true := by decide
theorem test_RPE_E8 : checkNext st [0xE8]
    (fun s => (((s.setSp 0x1FFE).poke 0x1FFE 0x03).poke 0x1FFF 0x01).flag .p false)
    (fun s => s.setPc 0x0101) =
      true := by decide
theorem test_RP_F0 : checkNext st [0xF0]
    (fun s => (((s.setSp 0x1FFE).poke 0x1FFE 0x03).poke 0x1FFF 0x01).flag .s true)
    (fun s => s.setPc 0x0101) =
      true := by decide
theorem test_RM_F8 : checkNext st [0xF8]
    (fun s => (((s.setSp 0x1FFE).poke 0x1FFE 0x03).poke 0x1FFF 0x01).flag .s false)
    (fun s => s.setPc 0x0101) =
      true := by decide
theorem test_RST_DF : checkNext st [0xDF]
    (fun s => (s.setPc 0x0200).setSp 0x2000)
    (fun s => (((s.poke 0x1FFF 0x02).poke 0x1FFE 0x01).setSp 0x1FFE).setPc 0x0018) =
      true := by decide
theorem test_RST_FF_b : checkNext st [0xFF]
    (fun s => (s.setPc 0xFFFF).setSp 0x2000)
    (fun s => (((s.poke 0x1FFF 0x00).poke 0x1FFE 0x00).setSp 0x1FFE).setPc 0x0038) =
      true := by decide
theorem test_PCHL_E9 : checkNext st [0xE9]
    (fun s => s.setPair .hl 0x413E)
    (fun s => s.setPc 0x413E) =
      true := by decide
theorem test_PUSH_C5 : checkNext st [0xC5]
    (fun s => (s.setPair .bc 0xBEEF).setSp 0x0001)
    (fun s => (((s.poke 0x0000 0xBE).poke 0xFFFF 0xEF).setSp 0xFFFF).setPc 0x0101) =
      true := by decide
theorem test_PUSH_C5_b : checkFault st4 [0xC5]
    (fun s => (s.setSp 0x0001).setPair .bc 0x1234) .write 0xFFFF = true := by decide
theorem test_PUSH_F5 : checkNext st [0xF5]
    (fun s => ((s.setReg .a 0x1F).setSp 0x2000).withFlags true false true true false)
    (fun s => (((s.poke 0x1FFF 0x1F).poke 0x1FFE 0x47).setSp 0x1FFE).setPc 0x0101) =
      true := by decide
theorem test_PUSH_F5_b : checkNext st [0xF5]
    (fun s => ((s.setReg .a 0xFF).setSp 0x2000).withFlags true true true true true)
    (fun s => (((s.poke 0x1FFF 0xFF).poke 0x1FFE 0xD7).setPc 0x0101).setSp 0x1FFE) =
      true := by decide
theorem test_POP_C1 : checkNext st [0xC1]
    (fun s => ((s.setSp 0x1FFE).poke 0x1FFE 0x34).poke 0x1FFF 0x12)
    (fun s => (((s.setReg .b 0x12).setReg .c 0x34).setSp 0x2000).setPc 0x0101) =
      true := by decide
theorem test_POP_F1 : checkNext st [0xF1]
    (fun s => ((s.setSp 0x2C00).poke 0x2C00 0xC3).poke 0x2C01 0xFF)
    (fun s => (((s.setReg .a 0xFF).setSp 0x2C02).setPc 0x0101).withFlags true true false true false) =
      true := by decide
theorem test_POP_F1_b : checkNext st [0xF1]
    (fun s => (((s.setSp 0x1FFE).poke 0x1FFE 0x28).poke 0x1FFF 0x80).withFlags true true true true true)
    (fun s => (((s.setReg .a 0x80).setPc 0x0101).setSp 0x2000).withFlags false false false false false) =
      true := by decide
theorem test_XTHL_E3 : checkNext st [0xE3]
    (fun s => (((s.setSp 0x10AD).setPair .hl 0x0B3C).poke 0x10AD 0xF0).poke 0x10AE 0x0D)
    (fun s => ((((s.setReg .l 0xF0).setReg .h 0x0D).poke 0x10AD 0x3C).poke 0x10AE 0x0B).setPc 0x0101) =
      true := by decide
theorem test_XTHL_E3_b : checkFault st4 [0xE3]
    (fun s => (s.setSp 0x3FFF).setPair .hl 0x1234) .read 0x4000 = true := by decide
theorem test_SPHL_F9 : checkNext st [0xF9]
    (fun s => s.setPair .hl 0x506C)
    (fun s => (s.setSp 0x506C).setPc 0x0101) =
      true := by decide
theorem test_NOP_00 : checkNext st [0x00] (fun s => s) (fun s => s.setPc 0x0101) = true := by decide
theorem test_HLT_76 : checkNext st [0x76]
    (fun s => s)
    (fun s => (s.setPc 0x0101).setStatus .halted) =
      true := by decide
theorem test_EI_FB : checkNext st [0xFB]
    (fun s => s.setInte false)
    (fun s => (s.setInte true).setPc 0x0101) =
      true := by decide
theorem test_DI_F3 : checkNext st [0xF3]
    (fun s => s.setInte true)
    (fun s => (s.setInte false).setPc 0x0101) =
      true := by decide
theorem test_NOP_08 : checkNext st [0x08] (fun s => s) (fun s => s.setPc 0x0101) = true := by decide
theorem test_NOP_CB : checkNext st [0xCB, 0x00, 0x20]
    (fun s => s)
    (fun s => s.setPc 0x0101) =
      true := by decide
theorem test_NOP_D9_b : checkNext st [0xD9]
    (fun s => ((s.setSp 0x1FFE).poke 0x1FFE 0x03).poke 0x1FFF 0x01)
    (fun s => s.setPc 0x0101) =
      true := by decide
theorem test_OUT_D3 : checkNext st [0xD3, 0x04]
    (fun s => (s.setReg .a 0x55).setShift 0xAA00)
    (fun s => (s.setShift 0x55AA).setPc 0x0102) =
      true := by decide
theorem test_OUT_D3_b : checkNext st [0xD3, 0x02]
    (fun s => s.setReg .a 0x0B)
    (fun s => (s.setOff 3).setPc 0x0102) =
      true := by decide
theorem test_IN_DB : checkNext st [0xDB, 0x03]
    (fun s => (s.setShift 0x55AA).setOff 4)
    (fun s => (s.setReg .a 0x5A).setPc 0x0102) =
      true := by decide
/-! `UNDOC_ALIAS = chip` (45_machine_control.md R295) -/

theorem test_chip_CB : checkNext stChip [0xCB, 0x00, 0x20] (fun s => s)
    (fun s => s.setPc 0x2000) = true := by decide
theorem test_chip_DD : checkNext stChip [0xDD, 0x00, 0x20] (fun s => s.setSp 0x2000)
    (fun s => (((s.poke 0x1FFF 0x01).poke 0x1FFE 0x03).setSp 0x1FFE).setPc 0x2000) = true := by
  decide

/-! ## The host's side -/

theorem test_load_bad_length :
    load [0x00] { memSize := 2, undocAlias := .nop } 0 = .error (.badImageLength 1 2) := by rfl
theorem test_load_bad_memsize :
    load [] { memSize := 0, undocAlias := .nop } 0 = .error (.badMemSize 0) := by rfl
theorem test_jump_out_of_range_is_done : (st4.setPc 0x5000).isDone = true ∧
    (st4.setPc 0x5000).runEnd = some .ranOff ∧ (st4.setPc 0x3FFF).isDone = false := by decide
theorem test_fault_leaves_the_rest : hostStep (placed [0x7E] (st4.setPair .hl 0x4000)) =
    ((placed [0x7E] (st4.setPair .hl 0x4000)).enterFault,
      .fault (.outOfRange .read 0x4000)) := by rfl
theorem test_query_out_of_range : snapshotMem st4 0x4000 = .error (.queryOutOfRange 0x4000) ∧
    snapshotMem st4 0x3FFF = .ok 0x00 := ⟨rfl, rfl⟩

/-- The same fault again from a machine that does not hold it (95_test_vectors.md 2.10, last line). -/
theorem test_fault_again :
    hostStep (placed [0x7E] (st4.setPair .hl 0x4000)).enterFault =
      ((placed [0x7E] (st4.setPair .hl 0x4000)).enterFault, .fault (.outOfRange .read 0x4000)) := by
  rfl

/-! ## Witnesses: for every statement with hypotheses, states that meet all of them, each clause at the
edges of its range -/

theorem witness_DecodeUndoesEncode : (Instr.movRR .a .b).wf = true ∧ (Instr.pop .hl).wf = true ∧
    (Instr.undefHigh .cb).wf = true := by decide

/-- Three bytes that end at the last address. -/
theorem witness_StepRunsTheDecodedInstruction :
    let s := placed [0x32, 0x00, 0x20] (st4.setPc 0x3FFD)
    s.status = .running ∧ decode (bytesAtPc s) = .ok (.sta 0x2000, []) ∧
      (∀ k, k < (Instr.sta 0x2000).length →
        (s.pc + BitVec.ofNat 16 k).toNat < s.cfg.memSize) ∧ s.cfg.undocAlias = .nop := by
  refine ⟨rfl, rfl, fun k hk => ?_, rfl⟩
  have h3 : k < 3 := hk
  match k, h3 with
  | 0, _ => decide
  | 1, _ => decide
  | 2, _ => decide

/-- The opcode byte, the second and the third byte missing. -/
theorem witness_FetchFaultAtFirstMissingByte :
    (st4.setPc 0x4000).status = .running ∧
    st4.cfg.memSize ≤ ((0x4000 : Word) + BitVec.ofNat 16 0).toNat ∧
    1 < (opcodeFormat ((st4.setPc 0x3FFF).opcodeOf 0x3E)).length ∧
    ((0x3FFF : Word) + BitVec.ofNat 16 0).toNat < st4.cfg.memSize ∧
    st4.cfg.memSize ≤ ((0x3FFF : Word) + BitVec.ofNat 16 1).toNat ∧
    2 < (opcodeFormat ((st4.setPc 0x3FFE).opcodeOf 0xC2)).length ∧
    ((0x3FFE : Word) + BitVec.ofNat 16 1).toNat < st4.cfg.memSize ∧
    st4.cfg.memSize ≤ ((0x3FFE : Word) + BitVec.ofNat 16 2).toNat := by decide

/-- The machine that `MOV A,M` with `HL = 4000 = MEMSIZE` has made `Faulted`. -/
def faultedAt4000 : State := (placed [0x7E] (st4.setPair .hl 0x4000)).enterFault

theorem witness_StoppedMachineDoesNothing : (st.setStatus .halted).status = .halted ∧
    (faultedAt4000.status = .faulted ∧
      step { faultedAt4000 with status := .running } = .fault (.outOfRange .read 0x4000)) :=
  ⟨rfl, rfl, rfl⟩

theorem witness_FaultEntryChangesOnlyStatus :
    step (placed [0x7E] (st4.setPair .hl 0x4000)) = .fault (.outOfRange .read 0x4000) := rfl

/-- `chip`, each of the five bytes, the one-byte one at the last address, the others in the last three. -/
theorem witness_UndocAliasChoosesTheFiveBytes_chip :
    stChip.status = .running ∧ stChip.cfg.undocAlias = .chip ∧
    (placed [0xD9] (stChip.setPc 0xFFFF)).peek 0xFFFF = 0xD9 ∧
    ((0xFFFF : Word)).toNat < stChip.cfg.memSize ∧
    (∀ b ∈ ([0xCB, 0xDD, 0xED, 0xFD] : List Byte),
      (placed [b] (stChip.setPc 0xFFFD)).peek 0xFFFD = b) ∧
    ((0xFFFD : Word) + 1).toNat < stChip.cfg.memSize ∧
    ((0xFFFD : Word) + 2).toNat < stChip.cfg.memSize := by decide

theorem witness_UndocAliasChoosesTheFiveBytes_nop :
    st.status = .running ∧ st.cfg.undocAlias = .nop ∧
    (placed [0xFD] (st.setPc 0xFFFF)).peek 0xFFFF ∈
      ([0xCB, 0xD9, 0xDD, 0xED, 0xFD] : List Byte) := by decide

/-- `STA` over the next opcode (a one-byte and a three-byte instruction), over the last byte of the next
instruction at the top of memory, and elsewhere. -/
theorem witness_StoreIsSeenByTheNextFetch :
    (∃ t, exec (.sta 0x0103) (st.setReg .a 0x3C) = .next t ∧ t.pc = 0x0103) ∧
    (∃ t, exec (.sta 0x0103) (st.setReg .a 0xC3) = .next t ∧ t.pc = 0x0103 ∧
      ∀ k, k < (opcodeFormat 0xC3).length →
        (t.pc + BitVec.ofNat 16 k).toNat < (st.setReg .a 0xC3).cfg.memSize) ∧
    (∃ t, exec (.sta 0xFFFF) ((st.setReg .a 0x3C).setPc 0xFFFA) = .next t ∧
      t.pc + BitVec.ofNat 16 2 = 0xFFFF) ∧
    st.mem.wf = true ∧ st.status = .running := by
  refine ⟨⟨_, rfl, rfl⟩, ⟨_, rfl, rfl, fun k hk => ?_⟩, ⟨_, rfl, rfl⟩, rfl, rfl⟩
  have h3 : k < 3 := hk
  match k, h3 with
  | 0, _ => decide
  | 1, _ => decide
  | 2, _ => decide

theorem st4_inv : st4.Inv := ⟨by decide, rfl, rfl, nofun⟩

/-- A running machine that steps on, one whose step faults, and one that is `Faulted`. -/
theorem witness_StepKeepsInvariant : (st4.Inv ∧ ∃ t, step st4 = .next t) ∧
    ((st4.setPc 0x4000).Inv ∧ step (st4.setPc 0x4000) = .fault (.outOfRange .fetch 0x4000)) ∧
    faultedAt4000.Inv :=
  ⟨⟨st4_inv, _, rfl⟩, ⟨⟨by decide, rfl, rfl, nofun⟩, rfl⟩, ⟨by decide, rfl, rfl, fun _ => ⟨_, rfl⟩⟩⟩

theorem load_ok {image : List Byte} {cfg : Config} (h : cfg.Legal) (hl : image.length = cfg.memSize)
    (pc : Word) : ∃ s, load image cfg pc = .ok s := by
  unfold load
  rw [if_neg (not_not_intro h), if_neg (not_not_intro hl)]
  exact ⟨_, rfl⟩

/-- The smallest and the largest machine. -/
theorem witness_LoadBuildsTheResetState :
    (∃ s, load [0x76] { memSize := 1, undocAlias := .nop } 0 = .ok s) ∧
    (∃ s, load (List.replicate 65536 0x76) { memSize := 65536, undocAlias := .chip } 0 = .ok s) :=
  ⟨load_ok (by decide) rfl 0, load_ok (by decide) List.length_replicate 0⟩

theorem witness_StepKeepsParametersAndOnlyHltHalts :
    (∃ t, step st = .next t ∧ t.status = .running) ∧
    (∃ t, step (placed [0x76] st) = .next t ∧ t.status = .halted) ∧ st.status = .running :=
  ⟨⟨_, rfl, rfl⟩, ⟨_, rfl, rfl⟩, rfl⟩

/-- An instruction that writes four flags and not `CY`, and one that writes none. -/
theorem witness_OnlyListedInstructionsWriteFlags :
    (∃ t, exec (.inrR .a) st = .next t) ∧ writesFlag (.inrR .a) .cy = false ∧
    (∃ t, exec .nop st = .next t) ∧ writesFlag .nop .z = false :=
  ⟨⟨_, rfl⟩, rfl, ⟨_, rfl⟩, rfl⟩

theorem witness_OnlyStoredBytesChange : ∃ t, exec (.push .bc) (st.setSp 1) = .next t := ⟨_, rfl⟩

theorem witness_OnlyListedInstructionsWriteSp :
    (∃ t, exec .nop st = .next t) ∧ writesSp st .nop = false ∧
    (∃ t, exec (.cz 0x2000) st = .next t) ∧ writesSp st (.cz 0x2000) = false :=
  ⟨⟨_, rfl⟩, rfl, ⟨_, rfl⟩, rfl⟩

theorem witness_PcIsTargetOrNext : (∃ t, exec (.jmp 0xFFFF) st = .next t) ∧
    (∃ t, exec .nop (st.setPc 0xFFFF) = .next t) := ⟨⟨_, rfl⟩, ⟨_, rfl⟩⟩

/-- One instruction that is none of the five writers. -/
theorem witness_ControlStateWriters : (∃ t, exec (.out 3) st = .next t) ∧
    Instr.out 3 ≠ .ei ∧ Instr.out 3 ≠ .di ∧ Instr.out 3 ≠ .hlt ∧ Instr.out 3 ≠ .out 2 ∧
    Instr.out 3 ≠ .out 4 := ⟨⟨_, rfl⟩, by decide⟩

theorem witness_InteIsReadByNothing : (∃ t, step (placed [0xFB] st) = .next t) ∧
    ∃ f, step (st4.setPc 0x4000) = .fault f := ⟨⟨_, rfl⟩, ⟨_, rfl⟩⟩

theorem witness_PortStateIsPrivate : touchesPorts (.inp 4) = false ∧ touchesPorts .addM = false ∧
    (∃ t, exec (.inp 4) st = .next t) ∧ ∃ f, exec .addM (st4.setPair .hl 0x4000) = .fault f :=
  ⟨rfl, rfl, ⟨_, rfl⟩, ⟨_, rfl⟩⟩

theorem witness_FullMemoryRunsNeverFault : st.cfg.memSize = 65536 ∧
    st.status ≠ .faulted ∧ (st.setStatus .halted).status ≠ .faulted := by decide

theorem witness_LoadPairImmediate : Pair.hl ≠ .sp := by decide

/-- The first address out of range and the last in range. -/
theorem witness_OneByteAccesses : st4.cfg.memSize ≤ (0x4000 : Word).toNat ∧
    (0x3FFF : Word).toNat < st4.cfg.memSize ∧ st4.mem.wf = true := by decide

/-- The last address below `MEMSIZE`, by each of the three ways to give it. -/
theorem witness_LoadByte :
    ((ByteLoad.movRM .h).addr (st4.setPair .hl 0x3FFF)).toNat < st4.cfg.memSize ∧
    ((ByteLoad.lda 0x3FFF).addr st4).toNat < st4.cfg.memSize ∧
    ((ByteLoad.ldax .bc).addr (st4.setPair .bc 0x3FFF)).toNat < st4.cfg.memSize := by decide

theorem witness_StoreByte : st4.mem.wf = true ∧
    ((ByteStore.movMR .h).addr (st4.setPair .hl 0x3FFF)).toNat < st4.cfg.memSize ∧
    ((ByteStore.mviM 0x5A).addr (st4.setPair .hl 0x3FFF)).toNat < st4.cfg.memSize ∧
    ((ByteStore.sta 0x3FFF).addr st4).toNat < st4.cfg.memSize ∧
    ((ByteStore.stax .de).addr (st4.setPair .de 0x3FFF)).toNat < st4.cfg.memSize := by decide

/-- The last two bytes of a short memory, and the pair that wraps in a full one. -/
theorem witness_TransferHlDirect : st.mem.wf = true ∧
    (0x3FFE : Word).toNat < st4.cfg.memSize ∧ ((0x3FFE : Word) + 1).toNat < st4.cfg.memSize ∧
    (0xFFFF : Word).toNat < st.cfg.memSize ∧ ((0xFFFF : Word) + 1).toNat < st.cfg.memSize := by
  decide

/-- The premise of the accumulator statements (`AddToAccumulator`, `SubtractFromAccumulator`,
`CompareSetsFlagsOnly`, `LogicOnAccumulator`), for the three operand forms. -/
theorem witness_AluSrc_Ready : AluSrc.mem.Ready (st4.setPair .hl 0x3FFF) ∧
    (AluSrc.reg .b).Ready st4 ∧ (AluSrc.imm 0xFF).Ready st4 :=
  ⟨by show (0x3FFF : Word).toNat < 0x4000; decide, trivial, trivial⟩

theorem witness_StepMemoryByOne : st4.mem.wf = true ∧
    (st4.setPair .hl 0x3FFF).hl.toNat < (st4.setPair .hl 0x3FFF).cfg.memSize := by decide

/-- Each of the eight conditions true and false (also `NotTakenCallsAndReturnsOnlyAdvance`). -/
theorem witness_JumpsSetPcOnly :
    let zero := st.flags
    let ones : Flags := { z := true, s := true, p := true, cy := true, ac := true }
    (condTable zero .nz ∧ condTable ones .z ∧ condTable zero .nc ∧ condTable ones .c ∧
      condTable zero .po ∧ condTable ones .pe ∧ condTable zero .p ∧ condTable ones .m) ∧
    (¬ condTable ones .nz ∧ ¬ condTable zero .z ∧ ¬ condTable ones .nc ∧ ¬ condTable zero .c ∧
      ¬ condTable ones .po ∧ ¬ condTable zero .pe ∧ ¬ condTable ones .p ∧ ¬ condTable zero .m) :=
  ⟨⟨rfl, rfl, rfl, rfl, rfl, rfl, rfl, rfl⟩,
    ⟨nofun, nofun, nofun, nofun, nofun, nofun, nofun, nofun⟩⟩

/-- The highest stack a short memory has room for, and the one that wraps in a full memory. -/
theorem witness_CanPush : CanPush (st4.setSp 0x4000) ∧ CanPush (st.setSp 0x0001) :=
  ⟨⟨by decide, by decide⟩, ⟨by decide, by decide⟩⟩

theorem witness_CanPop : CanPop (st4.setSp 0x3FFE) ∧ CanPop (st.setSp 0xFFFF) :=
  ⟨⟨by decide, by decide⟩, ⟨by decide, by decide⟩⟩

theorem witness_TakenCallPushesReturnAddress : (st4.setSp 0x4000).mem.wf = true ∧
    CanPush (st4.setSp 0x4000) ∧ (CallForm.call 0x2000).Taken (st4.setSp 0x4000) ∧
    (CallForm.on .nz 0x2000).Taken (st4.setSp 0x4000) ∧
    (CallForm.rst 7).Taken (st4.setSp 0x4000) := ⟨rfl, witness_CanPush.1, trivial, rfl, trivial⟩

theorem witness_TakenReturnPopsPc : CanPop (st.setSp 0xFFFF) ∧
    ReturnForm.ret.Taken (st.setSp 0xFFFF) ∧ (ReturnForm.on .nc).Taken (st.setSp 0xFFFF) :=
  ⟨witness_CanPop.2, trivial, rfl⟩

/-- Also for `PopAfterPushRestores`. -/
theorem witness_PushStoresHighByteAbove : (st.setSp 0x0001).mem.wf = true ∧
    CanPush (st.setSp 0x0001) ∧ Pair.isStackable .bc = true ∧ Pair.isStackable .de = true ∧
    Pair.isStackable .hl = true := ⟨rfl, witness_CanPush.2, rfl, rfl, rfl⟩

/-- Also for `PopPswLoadsAccumulatorAndFlags`. -/
theorem witness_PopLoadsPair : CanPop (st4.setSp 0x3FFE) ∧ Pair.isStackable .hl = true :=
  ⟨witness_CanPop.1, rfl⟩

theorem witness_ExchangeHlWithStack : (st4.setSp 0x3FFE).mem.wf = true ∧ CanPop (st4.setSp 0x3FFE) :=
  ⟨rfl, witness_CanPop.1⟩

/-- The port clauses exclude each other. -/
theorem witness_OutWritesThePortController : (3 : Byte) ≠ 2 ∧ (3 : Byte) ≠ 4 ∧ (2 : Byte) ≠ 4 := by
  decide

theorem witness_InReadsTheWindow : (4 : Byte) ≠ 3 := by decide

end Sys2Proof.Tests
end

/-! PROOFS. 00_scope.md: what a step of a running machine is, and what no step changes. First what the
decoder says of the opcode byte and of three bytes in a row, then where the instruction at `PC` lies. -/

namespace Sys2Proof

/-! ## The opcode byte of a decoded instruction (30_encoding.md R92, R103) -/

/-- An opcode byte is its three fields (R92). -/
theorem opcode_fields (b : Byte) :
    opcode (b.extractLsb' 6 2) (b.extractLsb' 3 3) (b.extractLsb' 0 3) = b := by
  unfold opcode
  rw [BitVec.extractLsb'_append_extractLsb'_eq_extractLsb' (by rfl),
    BitVec.extractLsb'_append_extractLsb'_eq_extractLsb' (by rfl)]
  simp

theorem decodeQ0_opcodeByte (y z : BitVec 3) (d : Byte) (w : Word) :
    (decodeQ0 y z d w).opcodeByte = opcode 0b00 y z := by
  rcases bitVec3_cases y with rfl | rfl | rfl | rfl | rfl | rfl | rfl | rfl <;>
    rcases bitVec3_cases z with rfl | rfl | rfl | rfl | rfl | rfl | rfl | rfl <;> rfl

theorem decodeQ1_opcodeByte (y z : BitVec 3) : (decodeQ1 y z).opcodeByte = opcode 0b01 y z := by
  rcases bitVec3_cases y with rfl | rfl | rfl | rfl | rfl | rfl | rfl | rfl <;>
    rcases bitVec3_cases z with rfl | rfl | rfl | rfl | rfl | rfl | rfl | rfl <;> rfl

theorem decodeQ2_opcodeByte (y z : BitVec 3) : (decodeQ2 y z).opcodeByte = opcode 0b10 y z := by
  rcases bitVec3_cases y with rfl | rfl | rfl | rfl | rfl | rfl | rfl | rfl <;>
    rcases bitVec3_cases z with rfl | rfl | rfl | rfl | rfl | rfl | rfl | rfl <;> rfl

theorem decodeQ3_opcodeByte (y z : BitVec 3) (d : Byte) (w : Word) :
    (decodeQ3 y z d w).opcodeByte = opcode 0b11 y z := by
  rcases bitVec3_cases y with rfl | rfl | rfl | rfl | rfl | rfl | rfl | rfl <;>
    rcases bitVec3_cases z with rfl | rfl | rfl | rfl | rfl | rfl | rfl | rfl <;> rfl

/-- No two opcode bytes decode to one instruction: the instruction still tells its opcode byte. -/
@[simp] theorem decodeOp_opcodeByte (b0 b1 b2 : Byte) : (decodeOp b0 b1 b2).opcodeByte = b0 := by
  conv_rhs => rw [← opcode_fields b0]
  unfold decodeOp
  generalize (b0.extractLsb' 6 2 : BitVec 2) = q
  rcases bitVec2_cases q with rfl | rfl | rfl | rfl
  · exact decodeQ0_opcodeByte _ _ _ _
  · exact decodeQ1_opcodeByte _ _
  · exact decodeQ2_opcodeByte _ _
  · exact decodeQ3_opcodeByte _ _ _ _

theorem decodeOp_eq_hlt_iff {b0 b1 b2 : Byte} : decodeOp b0 b1 b2 = .hlt ↔ b0 = 0x76 := by
  constructor
  · intro h
    rw [← decodeOp_opcodeByte b0 b1 b2, h]
    rfl
  · rintro rfl
    rfl

/-! ## The decoder on three bytes or more (R90, R91) -/

/-- Three bytes are enough for every opcode: the decoder reads as many as the opcode byte calls for. -/
theorem decode_three_bytes (b0 b1 b2 : Byte) (rest : List Byte) :
    decode (b0 :: b1 :: b2 :: rest) =
      .ok (decodeOp b0 b1 b2, (b0 :: b1 :: b2 :: rest).drop (opcodeFormat b0).length) := by
  cases hf : opcodeFormat b0 with
  | f1 => simp [decode, hf, decodeOp_of_f1 b1 b2 hf, Format.length]
  | f2 => simp [decode, hf, decodeOp_of_f2 b1 b2 hf, Format.length]
  | f3 => simp [decode, hf, Format.length]

end Sys2Proof

namespace Sys2Proof.Machine

open Sys2Proof.Spec

/-! ## The instruction at `PC` -/

theorem State.decode_bytesAtPc (s : State) :
    decode (bytesAtPc s) = .ok (s.currentInstr, (bytesAtPc s).drop s.currentFormat.length) := by
  rw [State.currentInstr_eq]
  exact decode_three_bytes _ _ _ _

theorem State.currentInstr_length (s : State) : s.currentInstr.length = s.currentFormat.length :=
  congrArg Format.length s.currentInstr_format

theorem State.currentInstr_eq_hlt_iff (s : State) :
    s.currentInstr = .hlt ↔ s.opcodeOf (s.peek s.pc) = 0x76 := by
  rw [State.currentInstr_eq, decodeOp_eq_hlt_iff]

theorem State.fetchInRange_iff (s : State) (f : Format) : s.fetchInRange f = true ↔
    ∀ k, k < f.length → (s.pc + BitVec.ofNat 16 k).toNat < s.cfg.memSize := by
  cases f <;>
    simp only [State.fetchInRange, Bool.and_eq_true, State.inRange_iff, Format.length,
      Nat.forall_lt_succ_right, Nat.not_lt_zero, false_imp_iff, implies_true, true_and,
      BitVec.ofNat_eq_ofNat, BitVec.add_zero]

/-! ## `status` after an instruction (10_state.md R34) -/

theorem ControlEffect.halted_iff {i : Instr} {s t : State} (h : ControlEffect i s t)
    (hrun : s.status = .running) : t.status = .halted ↔ i = .hlt := by
  refine ⟨fun ht => ?_, h.halt⟩
  by_contra hne
  rw [h.status hne, hrun] at ht
  cases ht

theorem ControlEffect.running_or_halted {i : Instr} {s t : State} (h : ControlEffect i s t)
    (hrun : s.status = .running) : t.status = .running ∨ t.status = .halted := by
  by_cases hi : i = .hlt
  · exact .inr (h.halt hi)
  · exact .inl ((h.status hi).trans hrun)

/-! ## The obligations -/

/-- Settles O4: the bytes at `PC` decode to the instruction a fetch goes on with, and the fetch goes on
when all of its bytes are in range. -/
theorem stepRunsTheDecodedInstruction : Obligations.StepRunsTheDecodedInstruction := by
  unfold Obligations.StepRunsTheDecodedInstruction
  constructor
  · intro s i rest hrun hdec hrange
    rw [State.decode_bytesAtPc] at hdec
    obtain ⟨rfl, -⟩ := Prod.mk.inj (Except.ok.inj hdec)
    rw [State.currentInstr_length] at hrange
    exact step_of_inRange hrun ((State.fetchInRange_iff s _).2 hrange)
  · intro s b0 hnop
    simp [State.opcodeOf, aliasOpcode, hnop]

/-- Settles O14: a halted machine steps to itself, and a running one does what its instruction can do to
the parameters and `status`. -/
theorem stepKeepsParametersAndOnlyHltHalts : Obligations.StepKeepsParametersAndOnlyHltHalts := by
  unfold Obligations.StepKeepsParametersAndOnlyHltHalts
  intro s t h
  obtain ⟨hhalted, rfl⟩ | ⟨-, -, hexec⟩ := step_eq_next.1 h
  · exact ⟨rfl, fun hrun => absurd (hrun.symm.trans hhalted) nofun⟩
  · have heff := exec_control hexec
    refine ⟨heff.cfg, fun hrun => ⟨heff.running_or_halted hrun, ?_⟩⟩
    rw [heff.halted_iff hrun, State.currentInstr_eq_hlt_iff]

end Sys2Proof.Machine

/-! PROOFS. 10_state.md: what an instruction writes, what it reads, and the invariant. Every instruction
is the range checks of its data accesses and then one change of the state; `CompletesTo` says once what
that change leaves alone, and the obligations are read off it. -/

namespace Sys2Proof.Machine

open Sys2Proof.Spec

variable {s t : State}

/-! ## Range checks in a row (60_exceptions.md R332, R334) -/

/-- The rest of a step behind the range checks of `xs`, in this order. -/
def State.checkAll (s : State) : List (AccessKind × Word) → Result → Result
  | [], rest => rest
  | (k, a) :: xs, rest => s.check k a (s.checkAll xs rest)

theorem State.checkAll_append (xs ys : List (AccessKind × Word)) (rest : Result) :
    s.checkAll (xs ++ ys) rest = s.checkAll xs (s.checkAll ys rest) := by
  induction xs with
  | nil => rfl
  | cons x xs ih => exact congrArg (s.check x.1 x.2) ih

/-- A range check looks at the parameters only. -/
theorem State.checkAll_congr {u : State} (h : u.cfg = s.cfg) (xs : List (AccessKind × Word))
    (rest : Result) : u.checkAll xs rest = s.checkAll xs rest := by
  induction xs with
  | nil => rfl
  | cons x xs ih =>
    have hin : u.inRange x.2 = s.inRange x.2 := by rw [State.inRange, State.inRange, h]
    rw [State.checkAll, State.checkAll, State.check, State.check, hin, ih]

theorem State.checkAll_eq_next {xs : List (AccessKind × Word)} {rest : Result} :
    s.checkAll xs rest = .next t ↔ (∀ x ∈ xs, s.inRange x.2 = true) ∧ rest = .next t := by
  induction xs with
  | nil => simp [State.checkAll]
  | cons x xs ih => simp [State.checkAll, State.check_eq_next, ih, and_assoc]

theorem State.checkAll_eq_refused {xs : List (AccessKind × Word)} {rest : Result} {r : Refusal} :
    s.checkAll xs rest = .refused r ↔ (∀ x ∈ xs, s.inRange x.2 = true) ∧ rest = .refused r := by
  induction xs with
  | nil => simp [State.checkAll]
  | cons x xs ih => simp [State.checkAll, State.check_eq_refused, ih, and_assoc]

/-- Before a state that is there in any case, the fault is that of the first access out of range. -/
theorem State.checkAll_next_eq_fault {xs : List (AccessKind × Word)} {f : Fault} :
    s.checkAll xs (.next t) = .fault f ↔
      ∃ x, xs.find? (fun x => !s.inRange x.2) = some x ∧ f = .outOfRange x.1 x.2 := by
  induction xs with
  | nil => simp [State.checkAll]
  | cons x xs ih =>
    rw [State.checkAll, State.check_eq_fault, ih]
    cases hx : s.inRange x.2 <;> simp [hx]

/-! ## Memory outside the bytes stored (20_memory.md R63) -/

theorem SameMemOutside.trans {u : State} {xs ys : List Word} (h : SameMemOutside xs s t)
    (h' : SameMemOutside ys t u) : SameMemOutside (xs ++ ys) s u := by
  intro a ha
  rw [List.map_append, List.mem_append, not_or] at ha
  exact (h' a ha.2).trans (h a ha.1)

theorem sameMemOutside_poke (s : State) (a : Word) (v : Byte) : SameMemOutside [a] s (s.poke a v) :=
  fun _ hb => MemoryLaws.read_write_other s.mem v fun he => hb (he ▸ List.mem_singleton_self _)

theorem sameMemOutside_poke_poke (s : State) (a : Word) (v : Byte) (b : Word) (w : Byte) :
    SameMemOutside [a, b] s ((s.poke a v).poke b w) :=
  (sameMemOutside_poke s a v).trans (sameMemOutside_poke _ b w)

/-! ## Conditional calls and returns as one change of the state (43_control_flow.md R233, R243) -/

/-- The state after a conditional call of three bytes. -/
def State.afterCallIf (s : State) (taken : Bool) (target : Word) : State :=
  { s with
    mem := if taken then
        ((s.poke (s.sp - 1) (hiByte (s.nextPc 3))).poke (s.sp - 2) (loByte (s.nextPc 3))).mem
      else s.mem
    sp := if taken then s.sp - 2 else s.sp
    pc := if taken then target else s.nextPc 3 }

/-- The state after a conditional return. -/
def State.afterReturnIf (s : State) (taken : Bool) : State :=
  { s with
    sp := if taken then s.sp + 2 else s.sp
    pc := if taken then stackTop s else s.nextPc 1 }

theorem State.callIf_eq_checkAll (taken : Bool) (target : Word) :
    s.callIf taken target =
      s.checkAll (accessesIf taken (pushAccesses s)) (.next (s.afterCallIf taken target)) := by
  cases taken <;> rfl

theorem State.returnIf_eq_checkAll (taken : Bool) :
    s.returnIf taken =
      s.checkAll (accessesIf taken (popAccesses s)) (.next (s.afterReturnIf taken)) := by
  cases taken <;> rfl

theorem sameMemOutside_afterCallIf (s : State) (taken : Bool) (target : Word) :
    SameMemOutside (if taken then [s.sp - 1, s.sp - 2] else []) s (s.afterCallIf taken target) := by
  cases taken with
  | false => exact fun _ _ => rfl
  | true => exact sameMemOutside_poke_poke s _ _ _ _

theorem targetIf_getD (taken : Bool) (target next : Word) :
    (targetIf taken target).getD next = if taken then target else next := by
  cases taken <;> rfl

/-! ## The port controller (46_io.md R316) -/

theorem IoPorts.portWrite_of_ne (io : IoPorts) {port : Byte} (v : Byte) (h2 : port ≠ 2)
    (h4 : port ≠ 4) : io.portWrite port v = io := by
  rw [IoPorts.portWrite, if_neg h2, if_neg h4]

theorem IoPorts.portRead_of_ne (io : IoPorts) {port : Byte} (h3 : port ≠ 3) :
    io.portRead port = 0 := if_neg h3

/-! ## What an instruction does once its accesses are in range -/

/-- Behind the range checks of its data accesses, instruction `i` takes `s` to `u s`, which differs from
`s` only where the tables of 10_state.md say so and depends neither on `INTE` nor, `OUT` and `IN 3` apart,
on the port controller. A field is given where it does not hold by evaluation. -/
structure CompletesTo (i : Instr) (u : State → State) : Prop where
  exec_eq : ∀ s, exec i s = s.checkAll (dataAccesses s i) (.next (u s))
  flags : ∀ s n, writesFlag i n = false → (u s).flags.get n = s.flags.get n := by
    exact fun _ _ _ => rfl
  mem : ∀ s, SameMemOutside (storedAddresses s i) s (u s) := by exact fun _ _ _ => rfl
  sp : ∀ s, writesSp s i = false → (u s).sp = s.sp := by exact fun _ _ => rfl
  pc : ∀ s, (u s).pc = (takenTarget s i).getD (s.nextPc i.length) := by exact fun _ => rfl
  inte : i ≠ .ei → i ≠ .di → ∀ s, (u s).inte = s.inte := by exact fun _ _ _ => rfl
  io : i ≠ .out 2 → i ≠ .out 4 → ∀ s, (u s).io = s.io := by exact fun _ _ _ => rfl
  inte_unread : ∀ s b, (u (s.setInte b)).setInte (u s).inte = u s := by exact fun _ _ => rfl
  io_unread : touchesPorts i = false → ∀ s v, u (s.setIo v) = (u s).setIo v := by
    exact fun _ _ _ => rfl

/-- A clause about what a table does not list, where the table lists it. -/
theorem of_listed {p : Prop} (h : true = false) : p := nomatch h

theorem Flags.get_eq_of_cy_eq {f g : Flags} (h : g.cy = f.cy) :
    ∀ n : FlagName, (n != .cy) = false → g.get n = f.get n
  | .cy, _ => h
  | .z, hn | .s, hn | .p, hn | .ac, hn => of_listed hn

theorem Flags.get_with_cy (f : Flags) (v : Bool) :
    ∀ n : FlagName, (n == .cy) = false → { f with cy := v }.get n = f.get n
  | .cy, hn => of_listed hn
  | .z, _ | .s, _ | .p, _ | .ac, _ => rfl

theorem completesTo_out (port : Byte) : CompletesTo (.out port)
    fun s => (s.setIo (s.io.portWrite port (s.getReg .a))).advance 2 where
  exec_eq _ := rfl
  io h2 h4 s := s.io.portWrite_of_ne _ (fun h => h2 (h ▸ rfl)) fun h => h4 (h ▸ rfl)
  io_unread h := of_listed h

theorem completesTo_inp (port : Byte) : CompletesTo (.inp port)
    fun s => (s.setReg .a (s.io.portRead port)).advance 2 where
  exec_eq _ := rfl
  io_unread h s v := by
    have h3 : port ≠ 3 := ne_of_beq_false h
    rw [State.setIo_io, IoPorts.portRead_of_ne _ h3, IoPorts.portRead_of_ne _ h3]
    rfl

/-- The case split over all instructions, by what they write. -/
theorem exec_completes (i : Instr) : ∃ u, CompletesTo i u := by
  cases i with
  -- only registers and `PC`
  | movRR | movRM | mviR | lda | lhld | ldax | xchg | cma | jmp | pchl | nop | hlt | undefLow
  | undefHigh =>
    exact ⟨_, { exec_eq := fun _ => rfl }⟩
  -- all five flags
  | addR | addM | adi | adcR | adcM | aci | subR | subM | sui | sbbR | sbbM | sbi | anaR | anaM | ani
  | xraR | xraM | xri | oraR | oraM | ori | cmpR | cmpM | cpi | daa =>
    exact ⟨_, { exec_eq := fun _ => rfl, flags := fun _ _ => of_listed }⟩
  -- all flags but `CY`
  | inrR | dcrR => exact ⟨_, { exec_eq := fun _ => rfl, flags := fun _ => Flags.get_eq_of_cy_eq rfl }⟩
  | inrM | dcrM =>
    exact ⟨_, { exec_eq := fun _ => rfl, flags := fun _ => Flags.get_eq_of_cy_eq rfl,
                mem := fun s => sameMemOutside_poke s _ _ }⟩
  -- `CY` alone
  | dad | rlc | rrc | ral | rar | cmc | stc =>
    exact ⟨_, { exec_eq := fun _ => rfl, flags := fun _ => Flags.get_with_cy _ _ }⟩
  -- one or two bytes stored
  | movMR | mviM | sta | stax =>
    exact ⟨_, { exec_eq := fun _ => rfl, mem := fun s => sameMemOutside_poke s _ _ }⟩
  | shld | xthl =>
    exact ⟨_, { exec_eq := fun _ => rfl, mem := fun s => sameMemOutside_poke_poke s _ _ _ _ }⟩
  -- `SP` for the pair `SP` alone
  | lxi pr | inx pr | dcx pr =>
    cases pr with
    | sp => exact ⟨_, { exec_eq := fun _ => rfl, sp := fun _ => of_listed }⟩
    | bc | de | hl => exact ⟨_, { exec_eq := fun _ => rfl }⟩
  -- the stack
  | push | pushPsw | call | rst =>
    exact ⟨_, { exec_eq := fun _ => rfl, sp := fun _ => of_listed,
                mem := fun s => sameMemOutside_poke_poke s _ _ _ _ }⟩
  | sphl | ret => exact ⟨_, { exec_eq := fun _ => rfl, sp := fun _ => of_listed }⟩
  | pop pr => cases pr <;> exact ⟨_, { exec_eq := fun _ => rfl, sp := fun _ => of_listed }⟩
  | popPsw =>
    exact ⟨_, { exec_eq := fun _ => rfl, sp := fun _ => of_listed, flags := fun _ _ => of_listed }⟩
  -- conditional transfers
  | jnz | jz | jnc | jc | jpo | jpe | jp | jm =>
    exact ⟨_, { exec_eq := fun _ => State.jumpIf_eq, pc := fun _ => (targetIf_getD _ _ _).symm }⟩
  | cnz | cz | cnc | cc | cpo | cpe | cp | cm =>
    exact ⟨_, { exec_eq := fun _ => State.callIf_eq_checkAll _ _,
                mem := fun s => sameMemOutside_afterCallIf s _ _,
                sp := fun _ h => if_neg (Bool.eq_false_iff.1 h),
                pc := fun _ => (targetIf_getD _ _ _).symm }⟩
  | rnz | rz | rnc | rc | rpo | rpe | rp | rm =>
    exact ⟨_, { exec_eq := fun _ => State.returnIf_eq_checkAll _,
                sp := fun _ h => if_neg (Bool.eq_false_iff.1 h),
                pc := fun _ => (targetIf_getD _ _ _).symm }⟩
  -- `INTE` and the port controller
  | ei => exact ⟨_, { exec_eq := fun _ => rfl, inte := fun h => absurd rfl h }⟩
  | di => exact ⟨_, { exec_eq := fun _ => rfl, inte := fun _ h => absurd rfl h }⟩
  | out port => exact ⟨_, completesTo_out port⟩
  | inp port => exact ⟨_, completesTo_inp port⟩

/-- A completed instruction left the one state it can leave. -/
theorem completes_of_exec {i : Instr} (h : exec i s = .next t) : ∃ u, CompletesTo i u ∧ t = u s := by
  obtain ⟨u, hu⟩ := exec_completes i
  rw [hu.exec_eq, State.checkAll_eq_next] at h
  obtain ⟨-, hnext⟩ := h
  exact ⟨u, hu, (next_inj hnext).symm⟩

/-! ## A step as range checks and one change of the state (00_scope.md R11) -/

/-- The fetches of the instruction at `PC`, in the order of R11. -/
def State.fetchAccesses (s : State) : List (AccessKind × Word) :=
  match s.currentFormat with
  | .f1 => [(.fetch, s.pc)]
  | .f2 => [(.fetch, s.pc), (.fetch, s.pc + 1)]
  | .f3 => [(.fetch, s.pc), (.fetch, s.pc + 1), (.fetch, s.pc + 2)]

/-- The fetches of the instruction at `PC`, then its data accesses. -/
def State.stepAccesses (s : State) : List (AccessKind × Word) :=
  s.fetchAccesses ++ dataAccesses s s.currentInstr

theorem State.fetchInstr_eq_checkAll (s : State) (k : Instr → Result) :
    s.fetchInstr k = s.checkAll s.fetchAccesses (k s.currentInstr) := by
  unfold State.fetchInstr State.currentInstr State.fetchAccesses State.currentFormat
  cases hf : opcodeFormat (s.opcodeOf (s.peek s.pc)) <;> simp only [State.fetchByte, hf] <;> rfl

theorem CompletesTo.step_eq {u : State → State} (hu : CompletesTo s.currentInstr u)
    (hrun : s.status = .running) : step s = s.checkAll s.stepAccesses (.next (u s)) := by
  rw [step_of_running hrun, State.fetchInstr_eq_checkAll, hu.exec_eq, State.stepAccesses,
    State.checkAll_append]

/-- A running machine is never refused. -/
theorem step_ne_refused_of_running (hrun : s.status = .running) (r : Refusal) :
    step s ≠ .refused r := by
  obtain ⟨u, hu⟩ := exec_completes s.currentInstr
  rw [hu.step_eq hrun]
  exact fun h => nomatch (State.checkAll_eq_refused.1 h).2

/-! ## The invariant -/

theorem State.Inv.of_step (hs : s.Inv) (h : step s = .next t) : t.Inv := by
  obtain ⟨-, rfl⟩ | ⟨hrun, -, hexec⟩ := step_eq_next.1 h
  · exact hs
  · have heff := exec_control hexec
    refine ⟨heff.cfg ▸ hs.legal, heff.mem.wf hs.wf, heff.cfg ▸ heff.mem.below hs.below, fun hf => ?_⟩
    obtain hr | hh := heff.running_or_halted hrun
    · exact nomatch hr.symm.trans hf
    · exact nomatch hh.symm.trans hf

/-- Fault entry keeps the invariant: the state still accounts for the fault, because it changed in
`status` alone (60_exceptions.md R335). -/
theorem State.Inv.enterFault {f : Fault} (hs : s.Inv) (h : step s = .fault f) : s.enterFault.Inv where
  legal := hs.legal
  wf := hs.wf
  below := hs.below
  settled _ := by
    have hagain := step_enterFault h
    rw [step_of_faulted rfl, repeatFault_eq_fault] at hagain
    exact ⟨f, hagain⟩

theorem State.Inv.step_ne_refused (hs : s.Inv) (r : Refusal) : step s ≠ .refused r := by
  cases hst : s.status with
  | running => exact step_ne_refused_of_running hst r
  | halted => rw [step_of_halted hst]; exact nofun
  | faulted =>
    obtain ⟨f, hf⟩ := hs.settled hst
    rw [step_of_faulted hst, hf]
    exact nofun

theorem State.Inv.hostStep (hs : s.Inv) : (hostStep s).1.Inv := by
  unfold Machine.hostStep
  cases h : step s with
  | next t => exact hs.of_step h
  | fault f => exact hs.enterFault h
  | refused r => exact hs

theorem State.reset_inv : State.reset.Inv := ⟨by decide, rfl, rfl, nofun⟩

/-! ## What nothing reads (10_state.md R33, R35) -/

theorem dataAccesses_setInte (s : State) (b : Bool) (i : Instr) :
    dataAccesses (s.setInte b) i = dataAccesses s i := rfl

theorem dataAccesses_setIo (s : State) (v : IoPorts) (i : Instr) :
    dataAccesses (s.setIo v) i = dataAccesses s i := rfl

theorem CompletesTo.exec_setIo {i : Instr} {u : State → State} (hu : CompletesTo i u)
    (hi : touchesPorts i = false) (s : State) (v : IoPorts) :
    exec i (s.setIo v) = s.checkAll (dataAccesses s i) (.next ((u s).setIo v)) := by
  rw [hu.exec_eq, dataAccesses_setIo, State.checkAll_congr (s.setIo_cfg v), hu.io_unread hi]

/-- `INTE` decides neither the instruction at `PC` nor any address of its accesses. -/
theorem CompletesTo.step_setInte {u : State → State} (hu : CompletesTo s.currentInstr u)
    (hrun : s.status = .running) (b : Bool) :
    step (s.setInte b) = s.checkAll s.stepAccesses (.next (u (s.setInte b))) := by
  have hu' : CompletesTo (s.setInte b).currentInstr u := hu
  rw [hu'.step_eq hrun, State.checkAll_congr (s.setInte_cfg b)]
  rfl

theorem step_setInte_of_next (h : step s = .next t) (b : Bool) :
    ∃ v, step (s.setInte b) = .next v ∧ v.setInte t.inte = t := by
  obtain ⟨hhalted, rfl⟩ | ⟨hrun, -, -⟩ := step_eq_next.1 h
  · exact ⟨_, step_of_halted hhalted, rfl⟩
  · obtain ⟨u, hu⟩ := exec_completes s.currentInstr
    rw [hu.step_eq hrun, State.checkAll_eq_next] at h
    obtain ⟨hin, hnext⟩ := h
    obtain rfl := next_inj hnext
    refine ⟨u (s.setInte b), ?_, hu.inte_unread s b⟩
    rw [hu.step_setInte hrun, State.checkAll_eq_next]
    exact ⟨hin, rfl⟩

theorem step_setInte_of_fault_of_running {f : Fault} (hrun : s.status = .running)
    (h : step s = .fault f) (b : Bool) : step (s.setInte b) = .fault f := by
  obtain ⟨u, hu⟩ := exec_completes s.currentInstr
  rw [hu.step_eq hrun, State.checkAll_next_eq_fault] at h
  rw [hu.step_setInte hrun, State.checkAll_next_eq_fault]
  exact h

theorem step_setInte_of_fault {f : Fault} (h : step s = .fault f) (b : Bool) :
    step (s.setInte b) = .fault f := by
  cases hst : s.status with
  | running => exact step_setInte_of_fault_of_running hst h b
  | halted => rw [step_of_halted hst] at h; cases h
  | faulted =>
    rw [step_of_faulted hst, repeatFault_eq_fault] at h
    rw [step_of_faulted (s := s.setInte b) hst, repeatFault_eq_fault]
    exact step_setInte_of_fault_of_running (s := s.setStatus .running) rfl h b

/-! ## The obligations -/

/-- Settles O11: a step that answers a next state is a halted machine's or a completed instruction's, and
fault entry changes `status` alone. -/
theorem stepKeepsInvariant : Obligations.StepKeepsInvariant := by
  unfold Obligations.StepKeepsInvariant
  exact fun s hs => ⟨fun _ h => hs.of_step h, hs.hostStep, hs.step_ne_refused⟩

/-- Settles O12: every part of the reset state by evaluation. -/
theorem resetMeetsInvariant : Obligations.ResetMeetsInvariant := by
  unfold Obligations.ResetMeetsInvariant
  exact ⟨State.reset_inv, rfl, rfl, fun _ => rfl, fun r => by cases r <;> rfl, rfl,
    fun n => by cases n <;> rfl, rfl, rfl, rfl, rfl⟩

/-- Settles O17, from the one state the instruction can leave. -/
theorem onlyListedInstructionsWriteFlags : Obligations.OnlyListedInstructionsWriteFlags := by
  unfold Obligations.OnlyListedInstructionsWriteFlags
  intro i s t n h hn
  obtain ⟨u, hu, rfl⟩ := completes_of_exec h
  exact hu.flags s n hn

/-- Settles O18, from the one state the instruction can leave. -/
theorem onlyStoredBytesChange : Obligations.OnlyStoredBytesChange := by
  unfold Obligations.OnlyStoredBytesChange
  intro i s t h
  obtain ⟨u, hu, rfl⟩ := completes_of_exec h
  exact hu.mem s

/-- Settles O19, from the one state the instruction can leave. -/
theorem onlyListedInstructionsWriteSp : Obligations.OnlyListedInstructionsWriteSp := by
  unfold Obligations.OnlyListedInstructionsWriteSp
  intro i s t h hi
  obtain ⟨u, hu, rfl⟩ := completes_of_exec h
  exact hu.sp s hi

/-- Settles O20, from the one state the instruction can leave. -/
theorem pcIsTargetOrNext : Obligations.PcIsTargetOrNext := by
  unfold Obligations.PcIsTargetOrNext
  intro i s t h
  obtain ⟨u, hu, rfl⟩ := completes_of_exec h
  exact hu.pc s

/-- Settles O21: `INTE` and the port controller from the one state the instruction can leave, `status`
from what every instruction can do to it. -/
theorem controlStateWriters : Obligations.ControlStateWriters := by
  unfold Obligations.ControlStateWriters
  intro i s t h
  obtain ⟨u, hu, rfl⟩ := completes_of_exec h
  exact ⟨fun hei hdi => hu.inte hei hdi s, (exec_control h).status, fun h2 h4 => hu.io h2 h4 s⟩

/-- Settles O22: both machines fetch the same instruction and check the same accesses. -/
theorem inteIsReadByNothing : Obligations.InteIsReadByNothing := by
  unfold Obligations.InteIsReadByNothing
  exact fun s b => ⟨fun t h => step_setInte_of_next h b, fun f h => step_setInte_of_fault h b⟩

/-- Settles O23: both machines check the same accesses and then change alike. -/
theorem portStateIsPrivate : Obligations.PortStateIsPrivate := by
  unfold Obligations.PortStateIsPrivate
  intro i s io hi
  obtain ⟨u, hu⟩ := exec_completes i
  have hio : exec i { s with io := io } = _ := hu.exec_setIo hi s io
  rw [hio, hu.exec_eq s]
  constructor
  · intro t h
    rw [State.checkAll_eq_next] at h ⊢
    obtain ⟨hin, hnext⟩ := h
    obtain rfl := next_inj hnext
    exact ⟨hin, rfl⟩
  · intro f h
    rw [State.checkAll_next_eq_fault] at h ⊢
    exact h

end Sys2Proof.Machine

/-! PROOFS. 20_memory.md: one-byte accesses, where a fetch faults, that a store is seen by the next fetch,
and that a machine with all 65536 bytes never faults. -/

namespace Sys2Proof.Machine

open Sys2Proof.Spec

variable {s t : State}

/-! ## One byte of memory and its range check (R62, R63) -/

theorem State.inRange_eq_false_iff (s : State) (a : Word) :
    s.inRange a = false ↔ s.cfg.memSize ≤ a.toNat := by
  simp [State.inRange]

theorem State.peek_poke (s : State) (a : Word) (v : Byte) (b : Word) (h : s.mem.wf = true) :
    (s.poke a v).peek b = if b = a then v else s.peek b := by
  split
  · next hb => exact hb ▸ s.peek_poke_same a v h
  · next hb => exact s.peek_poke_other v hb

/-- The one state `STA a` can leave (R128). -/
theorem exec_sta_eq_next {a : Word} :
    exec (.sta a) s = .next t ↔ s.inRange a = true ∧ (s.poke a (s.getReg .a)).advance 3 = t :=
  State.store8_eq_next (k := fun u => u.finish 3).trans (and_congr_right' State.finish_eq_next)

/-! ## Range checks in a row, up to the first that fails (60_exceptions.md R334) -/

theorem State.checkAll_of_inRange {xs : List (AccessKind × Word)} (h : ∀ x ∈ xs, s.inRange x.2 = true)
    (rest : Result) : s.checkAll xs rest = rest := by
  induction xs with
  | nil => rfl
  | cons x xs ih =>
    obtain ⟨hx, hxs⟩ := List.forall_mem_cons.1 h
    exact (State.check_of_inRange hx).trans (ih hxs)

theorem State.checkAll_of_first_not_inRange {xs : List (AccessKind × Word)} {k : Nat}
    (hk : k < xs.length) (hbefore : ∀ j (hj : j < k), s.inRange xs[j].2 = true)
    (hout : s.inRange xs[k].2 = false) (rest : Result) :
    s.checkAll xs rest = raiseFault xs[k].1 xs[k].2 := by
  induction xs generalizing k with
  | nil => exact absurd hk (Nat.not_lt_zero k)
  | cons x xs ih =>
    cases k with
    | zero => exact State.check_of_not_inRange hout
    | succ k =>
      have hx : s.inRange x.2 = true := hbefore 0 k.succ_pos
      exact (State.check_of_inRange hx).trans
        (ih (Nat.lt_of_succ_lt_succ hk) (fun j hj => hbefore (j + 1) (Nat.succ_lt_succ hj)) hout)

/-- The fetches of an instruction are those of its bytes in increasing address order (R64). -/
theorem State.fetchAccesses_eq_map_range (s : State) : s.fetchAccesses =
    (List.range s.currentFormat.length).map fun k => (.fetch, s.pc + BitVec.ofNat 16 k) := by
  unfold State.fetchAccesses
  cases s.currentFormat <;> simp [Format.length, List.range_succ]

theorem State.fetchInstr_of_first_not_inRange {k : Nat} (hk : k < s.currentFormat.length)
    (hbefore : ∀ j, j < k → s.inRange (s.pc + BitVec.ofNat 16 j) = true)
    (hout : s.inRange (s.pc + BitVec.ofNat 16 k) = false) (rest : Instr → Result) :
    s.fetchInstr rest = raiseFault .fetch (s.pc + BitVec.ofNat 16 k) := by
  rw [State.fetchInstr_eq_checkAll, State.fetchAccesses_eq_map_range,
    State.checkAll_of_first_not_inRange (k := k) (by simpa) (by simpa) (by simpa),
    List.getElem_map, List.getElem_range]

/-! ## A machine with all 65536 bytes (R77) -/

/-- All 65536 bytes are memory, and the machine is not `Faulted`. -/
structure State.FullAndNotFaulted (s : State) : Prop where
  memSize : s.cfg.memSize = 65536
  status : s.status ≠ .faulted

/-- An address that has wrapped to 16 bits is below 65536. -/
theorem State.inRange_of_full (h : s.cfg.memSize = 65536) (a : Word) : s.inRange a = true := by
  rw [State.inRange_iff, h]
  exact a.isLt

theorem State.step_next_of_full (h : s.cfg.memSize = 65536) (hst : s.status ≠ .faulted) :
    ∃ t, step s = .next t := by
  cases hcase : s.status with
  | running =>
    obtain ⟨u, hu⟩ := exec_completes s.currentInstr
    refine ⟨u s, ?_⟩
    rw [hu.step_eq hcase, State.checkAll_of_inRange fun x _ => State.inRange_of_full h x.2]
  | halted => exact ⟨s, step_of_halted hcase⟩
  | faulted => exact absurd hcase hst

/-- Only fault entry makes a machine `Faulted`; a step that answers a next state does not. -/
theorem status_ne_faulted_of_step (h : step s = .next t) : t.status ≠ .faulted := by
  obtain ⟨hhalted, rfl⟩ | ⟨hrun, -, hexec⟩ := step_eq_next.1 h
  · exact hhalted ▸ nofun
  · obtain hr | hh := (exec_control hexec).running_or_halted hrun
    · exact hr ▸ nofun
    · exact hh ▸ nofun

theorem State.FullAndNotFaulted.of_step (hs : s.FullAndNotFaulted) (h : step s = .next t) :
    t.FullAndNotFaulted where
  memSize := by
    obtain ⟨hcfg, -⟩ := stepKeepsParametersAndOnlyHltHalts s t h
    exact hcfg ▸ hs.memSize
  status := status_ne_faulted_of_step h

/-- From such a state every step goes on, and to such a state. -/
theorem State.FullAndNotFaulted.step_next (hs : s.FullAndNotFaulted) :
    ∃ t, step s = .next t ∧ t.FullAndNotFaulted := by
  obtain ⟨t, ht⟩ := State.step_next_of_full hs.memSize hs.status
  exact ⟨t, ht, hs.of_step ht⟩

/-- A run is safe where every step goes on and keeps the predicate it goes on from. -/
theorem safeRun_of_invariant {P : State → Prop} (hnext : ∀ s, P s → ∃ t, step s = .next t ∧ P t)
    (hs : P s) : SafeRun s := by
  intro k
  induction k generalizing s with
  | zero => exact ⟨s, rfl⟩
  | succ k ih =>
    obtain ⟨t, hstep, ht⟩ := hnext s hs
    rw [run_succ hstep]
    exact ih ht

/-! ## The obligations -/

/-- Settles O24: every access is in range, so every step goes on, and no step changes the parameters or
makes the machine `Faulted`. -/
theorem fullMemoryRunsNeverFault : Obligations.FullMemoryRunsNeverFault := by
  unfold Obligations.FullMemoryRunsNeverFault
  intro s hsize hstatus
  have hs : s.FullAndNotFaulted := ⟨hsize, hstatus⟩
  obtain ⟨t, hstep, ht⟩ := hs.step_next
  exact ⟨⟨t, hstep, ht.memSize, ht.status⟩, safeRun_of_invariant (fun _ hu => hu.step_next) hs⟩

/-- Settles O10: the next step runs the instruction at the new `PC`, whose three bytes are read from the
memory that `STA` left. -/
theorem storeIsSeenByTheNextFetch : Obligations.StoreIsSeenByTheNextFetch := by
  unfold Obligations.StoreIsSeenByTheNextFetch
  intro s t a hwf hrun hexec byteAt op hrange
  obtain ⟨-, rfl⟩ := exec_sta_eq_next.1 hexec
  set t := (s.poke a (s.getReg .a)).advance 3
  have hbyte (k : Nat) : t.peek (t.pc + BitVec.ofNat 16 k) = byteAt k := s.peek_poke a _ _ hwf
  have hop : t.opcodeOf (t.peek t.pc) = op := by
    rw [← BitVec.add_zero t.pc]
    exact congrArg s.opcodeOf (hbyte 0)
  have hin : t.fetchInRange t.currentFormat = true := by
    rw [State.currentFormat, hop, State.fetchInRange_iff]
    exact hrange
  rw [step_of_inRange (s := t) hrun hin, State.currentInstr_eq, hop, ← hbyte 1, ← hbyte 2]
  rfl

/-- Settles O5: the checks of the instruction's bytes stop at the first one out of range. -/
theorem fetchFaultAtFirstMissingByte : Obligations.FetchFaultAtFirstMissingByte := by
  unfold Obligations.FetchFaultAtFirstMissingByte
  intro s k hrun hk hbefore hout
  rw [step_of_running hrun]
  exact State.fetchInstr_of_first_not_inRange hk (fun j hj => (s.inRange_iff _).2 (hbefore j hj))
    ((s.inRange_eq_false_iff _).2 hout) _

/-- Settles O25: an access is its range check, then the byte read or the state with the byte written. -/
theorem oneByteAccesses : Obligations.OneByteAccesses := by
  unfold Obligations.OneByteAccesses
  intro s a v
  constructor
  · intro hout
    have hout : s.inRange a = false := (s.inRange_eq_false_iff a).2 hout
    exact ⟨fun _ => State.check_of_not_inRange hout, fun _ => State.check_of_not_inRange hout⟩
  · intro hin
    have hin : s.inRange a = true := (s.inRange_iff a).2 hin
    exact ⟨fun _ => State.check_of_inRange hin, fun hwf => ⟨s.poke a v,
      fun _ => State.check_of_inRange hin, rfl, s.peek_poke_same a v hwf,
      fun _ hb => s.peek_poke_other v hb⟩⟩

end Sys2Proof.Machine

/-! PROOFS. 30_encoding.md: `decode` and `encode` undo each other. Two facts carry it: what the decoder
gives from three bytes is encoded as the bytes it read, and every well-formed instruction is what the
decoder gives from its own opcode and operand bytes. -/

namespace Sys2Proof

open Sys2Proof.Machine

/-! ## The operand bytes of a decoded instruction (30_encoding.md R91, R96) -/

@[simp] theorem wordBytes_joinBytes (hi lo : Byte) : wordBytes (joinBytes hi lo) = [lo, hi] := by
  simp [wordBytes]

/-- The operand bytes of an instruction of this format whose operand is the byte `d` or the word `w`. -/
def Format.operandBytes (d : Byte) (w : Word) : Format → List Byte
  | .f1 => []
  | .f2 => [d]
  | .f3 => wordBytes w

/-- What decoding gives with the operand byte `d` and the operand word `w` at hand: an instruction that
has an encoding, with the operand that its format calls for and no other. -/
structure DecodedWith (d : Byte) (w : Word) (i : Instr) : Prop where
  wf : i.wf = true
  operandBytes : i.operandBytes = i.format.operandBytes d w

theorem decodeQ0_decodedWith (y z : BitVec 3) (d : Byte) (w : Word) :
    DecodedWith d w (decodeQ0 y z d w) := by
  rcases bitVec3_cases y with rfl | rfl | rfl | rfl | rfl | rfl | rfl | rfl <;>
    rcases bitVec3_cases z with rfl | rfl | rfl | rfl | rfl | rfl | rfl | rfl <;> exact ⟨rfl, rfl⟩

theorem decodeQ1_decodedWith (y z : BitVec 3) (d : Byte) (w : Word) :
    DecodedWith d w (decodeQ1 y z) := by
  rcases bitVec3_cases y with rfl | rfl | rfl | rfl | rfl | rfl | rfl | rfl <;>
    rcases bitVec3_cases z with rfl | rfl | rfl | rfl | rfl | rfl | rfl | rfl <;> exact ⟨rfl, rfl⟩

theorem decodeQ2_decodedWith (y z : BitVec 3) (d : Byte) (w : Word) :
    DecodedWith d w (decodeQ2 y z) := by
  rcases bitVec3_cases y with rfl | rfl | rfl | rfl | rfl | rfl | rfl | rfl <;>
    rcases bitVec3_cases z with rfl | rfl | rfl | rfl | rfl | rfl | rfl | rfl <;> exact ⟨rfl, rfl⟩

theorem decodeQ3_decodedWith (y z : BitVec 3) (d : Byte) (w : Word) :
    DecodedWith d w (decodeQ3 y z d w) := by
  rcases bitVec3_cases y with rfl | rfl | rfl | rfl | rfl | rfl | rfl | rfl <;>
    rcases bitVec3_cases z with rfl | rfl | rfl | rfl | rfl | rfl | rfl | rfl <;> exact ⟨rfl, rfl⟩

theorem decodeOp_decodedWith (b0 b1 b2 : Byte) :
    DecodedWith b1 (joinBytes b2 b1) (decodeOp b0 b1 b2) := by
  unfold decodeOp
  generalize (b0.extractLsb' 6 2 : BitVec 2) = q
  rcases bitVec2_cases q with rfl | rfl | rfl | rfl
  · exact decodeQ0_decodedWith _ _ _ _
  · exact decodeQ1_decodedWith _ _ _ _
  · exact decodeQ2_decodedWith _ _ _ _
  · exact decodeQ3_decodedWith _ _ _ _

/-! ## Decode, then encode (30_encoding.md R90, R103) -/

theorem encode_decodeOp (b0 b1 b2 : Byte) :
    encode (decodeOp b0 b1 b2) = [b0, b1, b2].take (opcodeFormat b0).length := by
  rw [encode, decodeOp_opcodeByte, (decodeOp_decodedWith b0 b1 b2).operandBytes, decodeOp_format]
  cases opcodeFormat b0 <;> simp [Format.operandBytes, Format.length]

/-- The decoder needs no byte beyond those of the instruction, where `decode_three_bytes` has three at
hand whatever the format is. -/
theorem decode_encode_decodeOp (b0 b1 b2 : Byte) (rest : List Byte) :
    decode (encode (decodeOp b0 b1 b2) ++ rest) = .ok (decodeOp b0 b1 b2, rest) := by
  rw [encode_decodeOp]
  cases hf : opcodeFormat b0 with
  | f1 => simp [decode, hf, decodeOp_of_f1 b1 b2 hf, Format.length]
  | f2 => simp [decode, hf, decodeOp_of_f2 b1 b2 hf, Format.length]
  | f3 => simp [decode, hf, Format.length]

/-! ## Encode, then decode (30_encoding.md R92 to R100) -/

/-- The decoder reads a well-formed instruction off its own opcode and operand bytes; 00 stands for an
operand byte that the instruction does not have. -/
theorem decodeOp_opcodeByte_operandBytes {i : Instr} (h : i.wf = true) :
    decodeOp i.opcodeByte (i.operandBytes.getD 0 0) (i.operandBytes.getD 1 0) = i := by
  cases i
  -- an opcode byte free of the operand value, so that its fields can be computed
  all_goals dsimp only [Instr.opcodeByte]
  -- an operand word, split by the encoder and joined by the decoder
  case lda w | sta w | lhld w | shld w | jmp w | jnz w | jz w | jnc w | jc w | jpo w | jpe w | jp w
      | jm w | call w | cnz w | cz w | cnc w | cc w | cpo w | cpe w | cp w | cm w =>
    conv_rhs => rw [← joinBytes_hiByte_loByte w]
    rfl
  case lxi pr w =>
    conv_rhs => rw [← joinBytes_hiByte_loByte w]
    cases pr <;> rfl
  -- fields of the opcode byte, by their code tables
  case movRR dst src => cases dst <;> cases src <;> rfl
  case movRM r | movMR r | mviR r d | inrR r | dcrR r | addR r | adcR r | subR r | sbbR r | anaR r
      | xraR r | oraR r | cmpR r => cases r <;> rfl
  case inx pr | dcx pr | dad pr => cases pr <;> rfl
  case undefHigh u => cases u <;> rfl
  case rst n => revert n; decide
  -- fields with values that `wf` rules out
  case ldax pr | stax pr | push pr | pop pr => cases pr <;> revert h <;> decide
  case undefLow x => revert x; decide
  -- a fixed opcode byte, with an operand byte or without operand
  all_goals rfl

/-! ## The obligations -/

/-- Settles O1: a well-formed instruction is what the decoder gives from three bytes, and those of them
that the instruction has are its encoding. -/
theorem decodeUndoesEncode : Obligations.DecodeUndoesEncode := by
  unfold Obligations.DecodeUndoesEncode
  intro i hwf rest
  rw [← decodeOp_opcodeByte_operandBytes hwf]
  exact decode_encode_decodeOp _ _ _ rest

/-- Settles O2: the decoder gives a well-formed instruction, with the opcode byte and the operand bytes it
was read from. -/
theorem everyOpcodeByteDecodesAndEncodesBack :
    Obligations.EveryOpcodeByteDecodesAndEncodesBack := by
  unfold Obligations.EveryOpcodeByteDecodesAndEncodesBack
  intro b0 b1 b2 rest
  exact ⟨(decodeOp_decodedWith b0 b1 b2).wf, decodeOp_format b0 b1 b2, encode_decodeOp b0 b1 b2,
    decode_three_bytes b0 b1 b2 rest⟩

/-- Settles O3: each word is decoded by evaluation, and the 256 opcode bytes are counted. -/
theorem specWordsDecode : Obligations.SpecWordsDecode := by
  unfold Obligations.SpecWordsDecode
  refine ⟨rfl, rfl, rfl, rfl, rfl, rfl, rfl, rfl, rfl, rfl, ?_, ?_, ?_⟩ <;> decide +kernel

end Sys2Proof

/-! PROOFS. 40_data_transfer.md: moves, loads, stores and `XCHG`. Three facts carry the family, each said
once: what an update of one register, one pair or one or two bytes leaves alone when `PC` goes on after
it; which halves a pair has; and that every one-byte load or store is one access of one shape. -/

namespace Sys2Proof

/-! ## The bytes of a word as numbers (00_scope.md R12) -/

theorem toNat_hiByte (v : Word) : (hiByte v).toNat = v.toNat / 256 := by
  rw [hiByte, BitVec.extractLsb'_toNat, Nat.shiftRight_eq_div_pow]
  exact Nat.mod_eq_of_lt (by omega)

theorem toNat_loByte (v : Word) : (loByte v).toNat = v.toNat % 256 := by
  rw [loByte, BitVec.extractLsb'_toNat, Nat.shiftRight_zero]

end Sys2Proof

namespace Sys2Proof.Machine

open Sys2Proof.Spec

variable {s : State}

/-! ## A register after it is written (10_state.md R21), and the halves of a pair (R22) -/

theorem State.getReg_setReg_same (s : State) (x : Reg8) (v : Byte) : (s.setReg x v).getReg x = v :=
  (s.getReg_setReg x x v).trans (if_pos rfl)

theorem State.getReg_highReg_setPair (s : State) {x : Pair} (h : x ≠ .sp) (v : Word) :
    (s.setPair x v).getReg (highReg x) = hiByte v := by
  cases x with
  | bc | de | hl => rfl
  | sp => exact absurd rfl h

theorem State.getReg_lowReg_setPair (s : State) {x : Pair} (h : x ≠ .sp) (v : Word) :
    (s.setPair x v).getReg (lowReg x) = loByte v := by
  cases x with
  | bc | de | hl => rfl
  | sp => exact absurd rfl h

theorem State.hiByte_getPair (s : State) {x : Pair} (h : x ≠ .sp) :
    hiByte (s.getPair x) = s.getReg (highReg x) := by
  cases x with
  | bc | de | hl => exact hiByte_joinBytes _ _
  | sp => exact absurd rfl h

theorem State.loByte_getPair (s : State) {x : Pair} (h : x ≠ .sp) :
    loByte (s.getPair x) = s.getReg (lowReg x) := by
  cases x with
  | bc | de | hl => exact loByte_joinBytes _ _
  | sp => exact absurd rfl h

/-! ## What an update leaves alone (10_state.md R41) -/

theorem sameRegsBut_setReg (s : State) (x : Reg8) (v : Byte) : SameRegsBut [x] s (s.setReg x v) :=
  fun r hr => (s.getReg_setReg x r v).trans (if_neg (List.ne_of_not_mem_cons hr))

theorem sameRegsBut_setPair (s : State) (x : Pair) (v : Word) :
    SameRegsBut (pairHalves x) s (s.setPair x v) :=
  fun _ hr => s.getReg_setPair_other hr v

theorem sameControl_setPair (s : State) (x : Pair) (v : Word) : SameControl s (s.setPair x v) :=
  ⟨s.setPair_inte x v, s.setPair_status x v, s.setPair_io x v, s.setPair_cfg x v⟩

theorem SameControl.advance {u : State} (h : SameControl s u) (len : Nat) :
    SameControl s (u.advance len) := ⟨h.inte, h.status, h.io, h.cfg⟩

theorem regOnly_setReg_advance (s : State) (x : Reg8) (v : Byte) (len : Nat) :
    RegOnly [x] len s ((s.setReg x v).advance len) where
  regs := sameRegsBut_setReg s x v
  sp := rfl
  pc := rfl
  control := ⟨rfl, rfl, rfl, rfl⟩
  mem _ := rfl

theorem pairOnly_setPair_advance (s : State) (x : Pair) (v : Word) (len : Nat) :
    PairOnly x len s ((s.setPair x v).advance len) where
  regs := sameRegsBut_setPair s x v
  sp h := (s.setPair_sp x v).trans (if_neg h)
  pc := congrArg (· + BitVec.ofNat 16 len) (s.setPair_pc x v)
  control := (sameControl_setPair s x v).advance len
  mem a := congrArg (Memory.read · a) (s.setPair_mem x v)

/-- Only the pair `SP` is no pair of 8-bit registers. -/
theorem PairOnly.regOnly {x : Pair} {len : Nat} {t : State} (h : PairOnly x len s t) (hx : x ≠ .sp) :
    RegOnly (pairHalves x) len s t := ⟨h.regs, h.sp hx, h.pc, h.control, h.mem⟩

theorem storeOnly_poke_advance (s : State) (a : Word) (v : Byte) (len : Nat) :
    StoreOnly [a] len s ((s.poke a v).advance len) where
  regs _ _ := rfl
  sp := rfl
  flags := rfl
  pc := rfl
  control := ⟨rfl, rfl, rfl, rfl⟩
  mem := sameMemOutside_poke s a v

theorem storeOnly_poke_poke_advance (s : State) (a : Word) (v : Byte) (b : Word) (w : Byte)
    (len : Nat) : StoreOnly [a, b] len s (((s.poke a v).poke b w).advance len) where
  regs _ _ := rfl
  sp := rfl
  flags := rfl
  pc := rfl
  control := ⟨rfl, rfl, rfl, rfl⟩
  mem := sameMemOutside_poke_poke s a v b w

/-! ## Two bytes stored one after the other (20_memory.md R65) -/

theorem State.peek_poke_poke_first (s : State) {a b : Word} (v w : Byte) (hwf : s.mem.wf = true)
    (hab : a ≠ b) : ((s.poke a v).poke b w).peek a = v := by
  rw [State.peek_poke_other _ _ hab, State.peek_poke_same _ _ _ hwf]

theorem State.peek_poke_poke_second (s : State) (a : Word) (v : Byte) (b : Word) (w : Byte)
    (hwf : s.mem.wf = true) : ((s.poke a v).poke b w).peek b = w :=
  State.peek_poke_same _ _ _ (s.poke_wf a v hwf)

/-! ## The meanings, by what they access -/

theorem exec_byteLoad (ld : ByteLoad) (s : State) :
    exec ld.instr s = s.load8 (ld.addr s) fun v => (s.setReg ld.dst v).finish ld.len := by
  cases ld with
  | movRM | lda | ldax => rfl

theorem exec_byteStore (st : ByteStore) (s : State) :
    exec st.instr s = s.store8 (st.addr s) (st.value s) fun t => t.finish st.len := by
  cases st with
  | movMR | mviM | sta | stax => rfl

theorem exec_byteLoad_of_inRange {ld : ByteLoad} (h : s.inRange (ld.addr s) = true) :
    exec ld.instr s = .next ((s.setReg ld.dst (s.peek (ld.addr s))).advance ld.len) := by
  rw [exec_byteLoad, State.load8_eq_next]
  exact ⟨h, rfl⟩

theorem exec_byteStore_of_inRange {st : ByteStore} (h : s.inRange (st.addr s) = true) :
    exec st.instr s = .next ((s.poke (st.addr s) (st.value s)).advance st.len) := by
  rw [exec_byteStore, State.store8_eq_next]
  exact ⟨h, rfl⟩

theorem exec_lhld_of_inRange {a : Word} (ha : s.inRange a = true) (ha' : s.inRange (a + 1) = true) :
    exec (.lhld a) s =
      .next ((s.setPair .hl (joinBytes (s.peek (a + 1)) (s.peek a))).advance 3) :=
  State.load16_eq_next (k := fun v => (s.setPair .hl v).finish 3).2 ⟨⟨ha, ha'⟩, rfl⟩

theorem exec_shld_of_inRange {a : Word} (ha : s.inRange a = true) (ha' : s.inRange (a + 1) = true) :
    exec (.shld a) s =
      .next (((s.poke a (s.getReg .l)).poke (a + 1) (s.getReg .h)).advance 3) := by
  have hlo : loByte s.hl = s.getReg .l := s.loByte_getPair (x := .hl) nofun
  have hhi : hiByte s.hl = s.getReg .h := s.hiByte_getPair (x := .hl) nofun
  rw [← hlo, ← hhi]
  exact State.store16_eq_next (k := fun t => t.finish 3).2 ⟨⟨ha, ha'⟩, rfl⟩

/-- The state after `XCHG`, but for `PC`. -/
def State.exchanged (s : State) : State := (s.setPair .hl s.de).setPair .de s.hl

theorem exec_xchg (s : State) : exec .xchg s = .next (s.exchanged.advance 1) := rfl

theorem State.exchanged_h (s : State) : s.exchanged.getReg .h = s.getReg .d :=
  s.hiByte_getPair (x := .de) nofun

theorem State.exchanged_l (s : State) : s.exchanged.getReg .l = s.getReg .e :=
  s.loByte_getPair (x := .de) nofun

theorem State.exchanged_d (s : State) : s.exchanged.getReg .d = s.getReg .h :=
  s.hiByte_getPair (x := .hl) nofun

theorem State.exchanged_e (s : State) : s.exchanged.getReg .e = s.getReg .l :=
  s.loByte_getPair (x := .hl) nofun

theorem sameRegsBut_exchanged (s : State) : SameRegsBut [.d, .e, .h, .l] s s.exchanged := by
  intro r hr
  have hde : r ∉ pairHalves .de := fun h => hr (List.mem_append_left (pairHalves .hl) h)
  have hhl : r ∉ pairHalves .hl := fun h => hr (List.mem_append_right (pairHalves .de) h)
  rw [State.exchanged, State.getReg_setPair_other _ hde, State.getReg_setPair_other _ hhl]

theorem regOnly_exchanged_advance (s : State) :
    RegOnly [.d, .e, .h, .l] 1 s (s.exchanged.advance 1) where
  regs := sameRegsBut_exchanged s
  sp := rfl
  pc := rfl
  control := ⟨rfl, rfl, rfl, rfl⟩
  mem _ := rfl

/-! ## The obligations -/

/-- Settles O32: the store is one access of one shape, and the byte written is the only one to change. -/
theorem storeByte : Obligations.StoreByte := by
  unfold Obligations.StoreByte
  intro s st hwf haddr
  have hin : s.inRange (st.addr s) = true := (s.inRange_iff _).2 haddr
  exact ⟨_, exec_byteStore_of_inRange hin, s.peek_poke_same _ _ hwf, storeOnly_poke_advance s _ _ _⟩

/-- Settles O33: the two bytes have different addresses even where the second wraps, so that the second
store of `SHLD` leaves the first. -/
theorem transferHlDirect : Obligations.TransferHlDirect := by
  unfold Obligations.TransferHlDirect
  intro s a ha ha'
  have hin : s.inRange a = true := (s.inRange_iff a).2 ha
  have hin' : s.inRange (a + 1) = true := (s.inRange_iff (a + 1)).2 ha'
  constructor
  · exact ⟨_, exec_lhld_of_inRange hin hin', loByte_joinBytes _ _, hiByte_joinBytes _ _,
      rfl, (pairOnly_setPair_advance s .hl _ 3).regOnly nofun⟩
  · intro hwf
    exact ⟨_, exec_shld_of_inRange hin hin', s.peek_poke_poke_first _ _ hwf (add_one_ne a).symm,
      s.peek_poke_poke_second _ _ _ _ hwf, storeOnly_poke_poke_advance s _ _ _ _ 3⟩

/-- Settles O29: both forms write one register and go on, a move of a register to itself included. -/
theorem moveToRegister : Obligations.MoveToRegister := by
  unfold Obligations.MoveToRegister
  intro s dst
  exact ⟨fun src => ⟨_, rfl, s.getReg_setReg_same dst _, rfl, regOnly_setReg_advance s dst _ 1⟩,
    fun d8 => ⟨_, rfl, s.getReg_setReg_same dst d8, rfl, regOnly_setReg_advance s dst d8 2⟩⟩

/-- Settles O30: the pair reads back as the value written, and its halves are the bytes of that value. -/
theorem loadPairImmediate : Obligations.LoadPairImmediate := by
  unfold Obligations.LoadPairImmediate
  intro s pr d16
  refine ⟨(s.setPair pr d16).advance 3, rfl, s.getPair_setPair pr d16, fun hpr => ⟨?_, ?_⟩,
    s.setPair_flags pr d16, pairOnly_setPair_advance s pr d16 3⟩
  · rw [State.getReg_advance, s.getReg_highReg_setPair hpr, toNat_hiByte]
  · rw [State.getReg_advance, s.getReg_lowReg_setPair hpr, toNat_loByte]

/-- Settles O31: the load is one access of one shape, and the destination is the only register to change. -/
theorem loadByte : Obligations.LoadByte := by
  unfold Obligations.LoadByte
  intro s ld haddr
  have hin : s.inRange (ld.addr s) = true := (s.inRange_iff _).2 haddr
  exact ⟨_, exec_byteLoad_of_inRange hin, s.getReg_setReg_same ld.dst _, rfl,
    regOnly_setReg_advance s _ _ _⟩

/-- Settles O34: each register of a pair holds the byte that the other pair had in its place. -/
theorem exchangePairs : Obligations.ExchangePairs := by
  unfold Obligations.ExchangePairs
  exact ⟨rfl, fun s => ⟨_, exec_xchg s, s.exchanged_h, s.exchanged_l, s.exchanged_d, s.exchanged_e,
    rfl, regOnly_exchanged_advance s⟩⟩

end Sys2Proof.Machine

/-! PROOFS. 41_arithmetic.md: the arithmetic instructions. The ALU's functions are held against the spec's
formulas first, as numbers. Then each family of instructions is one shape: a result and its flags put into
a register, or into the byte at `HL`, and `PC` goes on after it. -/

namespace Sys2Proof.Machine

open Sys2Proof.Spec

variable {s : State}

/-! ## Parity (41_arithmetic.md R150) -/

theorem parity8_eq_even_onesCount (v : Byte) : parity8 v = (onesCount v % 2 == 0) := by
  have hcount : (List.range 8).countP (fun i => v.getLsbD i) = onesCount v := by
    simp only [List.range_succ, List.range_zero, List.countP_append, List.countP_nil,
      List.countP_singleton, Nat.zero_add, onesCount, Bool.toNat, Bool.cond_eq_ite]
  rw [parity8, hcount]

/-- An exclusive or is the parity of a sum, bit by bit. -/
theorem evenParity_eq_even_onesCount (v : Byte) : evenParity v = (onesCount v % 2 == 0) := by
  have hodd : Nat.bodd (onesCount v) = !evenParity v := by
    have hbit (x : Bool) : Nat.bodd x.toNat = x := by cases x <;> rfl
    simp [onesCount, evenParity, Nat.bodd_add, hbit]
  rw [Nat.mod_two_of_bodd, hodd]
  cases evenParity v <;> rfl

theorem parity8_eq_evenParity (v : Byte) : parity8 v = evenParity v :=
  (parity8_eq_even_onesCount v).trans (evenParity_eq_even_onesCount v).symm

/-! ## The ALU's functions as numbers (41_arithmetic.md R151 to R153, R166, R168) -/

theorem bit_eq_toNat (x : Bool) : bit x = x.toNat := by cases x <;> rfl

theorem zsp_setZSP (res : Byte) (f : Flags) : ZSP res (setZSP res f) where
  z := decide_eq_decide.2 BitVec.toNat_eq
  s := (BitVec.msb_eq_getLsbD_last res).symm.trans (BitVec.msb_eq_decide res)
  p := parity8_eq_evenParity res

theorem isSum_add8 (a b : Byte) (cin : Bool) :
    IsSum a b cin (add8 a b cin).res (add8 a b cin).flags := by
  unfold add8
  rw [bit_eq_toNat]
  exact ⟨BitVec.toNat_ofNat _ _, rfl, rfl, zsp_setZSP _ _⟩

/-- The low nibble of a complement is 15 less the low nibble. -/
theorem lowNibble_not (v : Byte) : lowNibble (~~~v) = 15 - lowNibble v := by
  rw [lowNibble, lowNibble, BitVec.toNat_not]
  omega

theorem isDifference_sub8 (a b : Byte) (bin : Bool) :
    IsDifference a b bin (sub8 a b bin).res (sub8 a b bin).flags := by
  have hbin : bin.toNat ≤ 1 := bin.toNat_le
  unfold sub8
  rw [bit_eq_toNat, lowNibble_not]
  refine ⟨?_, rfl, ?_, zsp_setZSP _ _⟩
  · rw [BitVec.toNat_ofInt]
    omega
  · refine decide_eq_decide.2 ?_
    unfold lowNibble
    omega

theorem toNat_inc8_res (v : Byte) (f : Flags) : (inc8 v f).res.toNat = (v.toNat + 1) % 256 :=
  BitVec.toNat_ofNat _ _

theorem toNat_dec8_res (v : Byte) (f : Flags) : (dec8 v f).res.toNat = (v.toNat + 255) % 256 := by
  rw [dec8, BitVec.toNat_ofInt]
  omega

theorem dec8_ac (v : Byte) (f : Flags) : (dec8 v f).flags.ac = decide (v.toNat % 16 ≠ 0) :=
  decide_not.symm

theorem toNat_sub_one (v : Word) : (v - 1).toNat = (v.toNat + 65535) % 65536 := by
  rw [BitVec.toNat_sub, Nat.add_comm]
  rfl

/-! ## `DAA` (41_arithmetic.md R173) -/

/-- What stage 1 adds to the byte `a`. -/
def daaLowAdd (a : Nat) (ac : Bool) : Nat := if a % 16 > 9 ∨ ac = true then 6 else 0

/-- What the one-pass form adds for the high nibble, said of the byte `a` before stage 1. -/
def daaHighAdd (a : Nat) (cy : Bool) : Nat := if a > 0x99 ∨ cy = true then 0x60 else 0

theorem daaLow_eq (a : Byte) (cy ac : Bool) :
    daaLow a cy ac = (BitVec.ofNat 8 (a.toNat + daaLowAdd a.toNat ac),
      cy || decide (a.toNat + daaLowAdd a.toNat ac > 255),
      decide (a.toNat % 16 + daaLowAdd a.toNat ac > 15)) := by
  unfold daaLow daaLowAdd lowNibble
  split
  · rfl
  · next h =>
    obtain ⟨-, hac⟩ := not_or.1 h
    have ha : a.toNat < 256 := a.isLt
    have hnibble : a.toNat % 16 < 16 := Nat.mod_lt _ (by decide)
    simp [Nat.not_lt.2 (Nat.le_of_lt_succ ha), Nat.not_lt.2 (Nat.le_of_lt_succ hnibble),
      Bool.eq_false_iff.2 hac]

/-- Stage 2 decides on the updated byte as the one-pass form does on the byte before stage 1: 9A to 9F
are the bytes that exceed 99 with a high nibble of 9, and stage 1 adds 6 to each of them. -/
theorem daaHigh_condition_iff (a : Byte) (cy ac : Bool) :
    highNibble (daaLow a cy ac).1 > 9 ∨ (daaLow a cy ac).2.1 = true ↔ a.toNat > 0x99 ∨ cy = true := by
  have ha : a.toNat < 256 := a.isLt
  rw [daaLow_eq, highNibble, BitVec.toNat_ofNat, Bool.or_eq_true, decide_eq_true_iff,
    or_comm (a := cy = true), ← or_assoc]
  refine or_congr_left ?_
  unfold daaLowAdd
  split <;> omega

/-- Both stages as one addition. -/
theorem daaHigh_daaLow (a : Byte) (cy ac : Bool) :
    daaHigh (daaLow a cy ac).1 (daaLow a cy ac).2.1 =
      (BitVec.ofNat 8 (a.toNat + daaLowAdd a.toNat ac + daaHighAdd a.toNat cy),
        decide (daaHighAdd a.toNat cy = 0x60)) := by
  have hcond := daaHigh_condition_iff a cy ac
  have hlow : (daaLow a cy ac).1 = BitVec.ofNat 8 (a.toNat + daaLowAdd a.toNat ac) :=
    congrArg Prod.fst (daaLow_eq a cy ac)
  by_cases h : a.toNat > 0x99 ∨ cy = true
  · rw [daaHigh, if_pos (hcond.2 h), daaHighAdd, if_pos h, hlow]
    simp only [BitVec.ofNat_add, BitVec.ofNat_toNat, BitVec.setWidth_eq, decide_true]
  · have hcarry : (daaLow a cy ac).2.1 = false :=
      Bool.eq_false_iff.2 fun hc => h (hcond.1 (.inr hc))
    rw [daaHigh, if_neg (mt hcond.1 h), daaHighAdd, if_neg h, hlow, hcarry]
    rfl

theorem toNat_daa8_res (a : Byte) (f : Flags) :
    (daa8 a f).res.toNat = (a.toNat + daaLowAdd a.toNat f.ac + daaHighAdd a.toNat f.cy) % 256 := by
  rw [daa8, daaHigh_daaLow]
  exact BitVec.toNat_ofNat _ _

theorem daa8_cy (a : Byte) (f : Flags) :
    (daa8 a f).flags.cy = decide (daaHighAdd a.toNat f.cy = 0x60) :=
  congrArg Prod.snd (daaHigh_daaLow a f.cy f.ac)

theorem daa8_ac (a : Byte) (f : Flags) :
    (daa8 a f).flags.ac = decide (a.toNat % 16 + daaLowAdd a.toNat f.ac > 15) :=
  congrArg (·.2.2) (daaLow_eq a f.cy f.ac)

/-! ## The second operand of an accumulator instruction (30_encoding.md R96) -/

/-- The rest of an instruction behind the read of its second operand. -/
def State.withOperand (s : State) (src : AluSrc) (k : Byte → Result) : Result :=
  match src with
  | .reg r => k (s.getReg r)
  | .mem => s.load8 s.hl k
  | .imm d8 => k d8

theorem State.withOperand_of_ready {src : AluSrc} (h : src.Ready s) (k : Byte → Result) :
    s.withOperand src k = k (src.value s) := by
  cases src with
  | reg | imm => rfl
  | mem => exact State.check_of_inRange ((s.inRange_iff s.hl).2 h)

/-! ## A result and its flags put into a register or into a byte of memory -/

/-- The register `x` and the flags from an ALU function. -/
def State.putReg (s : State) (x : Reg8) (r : AluResult) : State := (s.setReg x r.res).setFlags r.flags

/-- The byte at `a` and the flags from an ALU function. -/
def State.putByte (s : State) (a : Word) (r : AluResult) : State := (s.poke a r.res).setFlags r.flags

theorem RegOnly.setFlags {written : List Reg8} {len : Nat} {t : State} (h : RegOnly written len s t)
    (f : Flags) : RegOnly written len s (t.setFlags f) :=
  ⟨h.regs, h.sp, h.pc, ⟨h.control.inte, h.control.status, h.control.io, h.control.cfg⟩, h.mem⟩

theorem regOnly_putReg_advance (s : State) (x : Reg8) (r : AluResult) (len : Nat) :
    RegOnly [x] len s ((s.putReg x r).advance len) :=
  (regOnly_setReg_advance s x r.res len).setFlags r.flags

theorem State.getReg_putReg_same (s : State) (x : Reg8) (r : AluResult) :
    (s.putReg x r).getReg x = r.res := s.getReg_setReg_same x r.res

theorem State.peek_putByte_same (s : State) (a : Word) (r : AluResult) (h : s.mem.wf = true) :
    (s.putByte a r).peek a = r.res := s.peek_poke_same a r.res h

theorem storeOnly_putByte_advance (s : State) (a : Word) (r : AluResult) (len : Nat) :
    StoreOnly [a] len s { (s.putByte a r).advance len with flags := s.flags } :=
  storeOnly_poke_advance s a r.res len

/-! ## The meanings, by the result they put -/

theorem exec_addOf (src : AluSrc) (s : State) : exec (addOf src) s =
    s.withOperand src fun v => (s.putReg .a (add8 (s.getReg .a) v false)).finish src.len := by
  cases src with
  | reg | mem | imm => rfl

theorem exec_adcOf (src : AluSrc) (s : State) : exec (adcOf src) s =
    s.withOperand src fun v => (s.putReg .a (add8 (s.getReg .a) v s.flags.cy)).finish src.len := by
  cases src with
  | reg | mem | imm => rfl

theorem exec_subOf (src : AluSrc) (s : State) : exec (subOf src) s =
    s.withOperand src fun v => (s.putReg .a (sub8 (s.getReg .a) v false)).finish src.len := by
  cases src with
  | reg | mem | imm => rfl

theorem exec_sbbOf (src : AluSrc) (s : State) : exec (sbbOf src) s =
    s.withOperand src fun v => (s.putReg .a (sub8 (s.getReg .a) v s.flags.cy)).finish src.len := by
  cases src with
  | reg | mem | imm => rfl

theorem exec_inrR (dst : Reg8) (s : State) : exec (.inrR dst) s =
    .next ((s.putReg dst (inc8 (s.getReg dst) s.flags)).advance 1) := rfl

theorem exec_dcrR (dst : Reg8) (s : State) : exec (.dcrR dst) s =
    .next ((s.putReg dst (dec8 (s.getReg dst) s.flags)).advance 1) := rfl

theorem exec_inrM_of_inRange (h : s.inRange s.hl = true) : exec .inrM s =
    .next ((s.putByte s.hl (inc8 (s.peek s.hl) s.flags)).advance 1) := State.check_of_inRange h

theorem exec_dcrM_of_inRange (h : s.inRange s.hl = true) : exec .dcrM s =
    .next ((s.putByte s.hl (dec8 (s.peek s.hl) s.flags)).advance 1) := State.check_of_inRange h

theorem exec_daa (s : State) : exec .daa s =
    .next ((s.putReg .a (daa8 (s.getReg .a) s.flags)).advance 1) := rfl

/-! ## The obligations -/

/-- Settles O39: the byte written at `HL` is the only one to change. -/
theorem stepMemoryByOne : Obligations.StepMemoryByOne := by
  unfold Obligations.StepMemoryByOne
  intro s hwf haddr
  have hin : s.inRange s.hl = true := (s.inRange_iff s.hl).2 haddr
  constructor
  · refine ⟨_, exec_inrM_of_inRange hin, ?_⟩
    rw [State.peek_advance, s.peek_putByte_same _ _ hwf]
    exact ⟨toNat_inc8_res _ _, zsp_setZSP _ _, rfl, rfl, storeOnly_putByte_advance s _ _ 1⟩
  · refine ⟨_, exec_dcrM_of_inRange hin, ?_⟩
    rw [State.peek_advance, s.peek_putByte_same _ _ hwf]
    exact ⟨toNat_dec8_res _ _, zsp_setZSP _ _, dec8_ac _ _, rfl, storeOnly_putByte_advance s _ _ 1⟩

/-- Settles O42: stage 2 decides on the updated byte as the one-pass form does on the byte before
stage 1. -/
theorem decimalAdjustIsTheOnePassForm : Obligations.DecimalAdjustIsTheOnePassForm := by
  unfold Obligations.DecimalAdjustIsTheOnePassForm
  intro s a low high
  exact ⟨_, exec_daa s, toNat_daa8_res _ _, daa8_cy _ _, daa8_ac _ _, zsp_setZSP _ _,
    regOnly_putReg_advance s .a _ 1⟩

/-- Settles O26: both are the parity of the number of 1 bits. -/
theorem parityIsOneForAnEvenCount : Obligations.ParityIsOneForAnEvenCount := by
  unfold Obligations.ParityIsOneForAnEvenCount
  refine ⟨fun v => ⟨parity8_eq_evenParity v, ?_⟩, rfl, rfl, rfl⟩
  rw [parity8_eq_even_onesCount, beq_iff_eq]

/-- Settles O27: `CY` and `AC` are not among the fields it writes. -/
theorem setZspWritesThreeFlags : Obligations.SetZspWritesThreeFlags := by
  unfold Obligations.SetZspWritesThreeFlags
  exact fun res f => ⟨zsp_setZSP res f, rfl, rfl⟩

/-- Settles O28: the exact sum of the operands as numbers is narrowed to a byte. -/
theorem addEightBits : Obligations.AddEightBits := by
  unfold Obligations.AddEightBits
  exact isSum_add8

/-- Settles O35: every form puts the sum with its flags into `A` once its operand is read. -/
theorem addToAccumulator : Obligations.AddToAccumulator := by
  unfold Obligations.AddToAccumulator
  intro s src hready
  exact ⟨⟨_, (exec_addOf src s).trans (State.withOperand_of_ready hready _), isSum_add8 _ _ _,
      regOnly_putReg_advance s .a _ _⟩,
    ⟨_, (exec_adcOf src s).trans (State.withOperand_of_ready hready _), isSum_add8 _ _ _,
      regOnly_putReg_advance s .a _ _⟩⟩

/-- Settles O36: every form puts the difference with its flags into `A` once its operand is read. -/
theorem subtractFromAccumulator : Obligations.SubtractFromAccumulator := by
  unfold Obligations.SubtractFromAccumulator
  intro s src hready
  exact ⟨⟨_, (exec_subOf src s).trans (State.withOperand_of_ready hready _), isDifference_sub8 _ _ _,
      regOnly_putReg_advance s .a _ _⟩,
    ⟨_, (exec_sbbOf src s).trans (State.withOperand_of_ready hready _), isDifference_sub8 _ _ _,
      regOnly_putReg_advance s .a _ _⟩⟩

/-- Settles O38: one register is written, with every flag but `CY`. -/
theorem stepRegisterByOne : Obligations.StepRegisterByOne := by
  unfold Obligations.StepRegisterByOne
  intro s dst
  constructor
  · refine ⟨_, exec_inrR dst s, ?_⟩
    rw [State.getReg_advance, State.getReg_putReg_same]
    exact ⟨toNat_inc8_res _ _, zsp_setZSP _ _, rfl, rfl, regOnly_putReg_advance s dst _ 1⟩
  · refine ⟨_, exec_dcrR dst s, ?_⟩
    rw [State.getReg_advance, State.getReg_putReg_same]
    exact ⟨toNat_dec8_res _ _, zsp_setZSP _ _, dec8_ac _ _, rfl, regOnly_putReg_advance s dst _ 1⟩

/-- Settles O40: the pair reads back as the value written, and no flag is. -/
theorem stepPairByOne : Obligations.StepPairByOne := by
  unfold Obligations.StepPairByOne
  intro s pr
  refine ⟨⟨(s.setPair pr (s.getPair pr + 1)).advance 1, rfl, ?_, s.setPair_flags pr _,
      pairOnly_setPair_advance s pr _ 1⟩,
    ⟨(s.setPair pr (s.getPair pr - 1)).advance 1, rfl, ?_, s.setPair_flags pr _,
      pairOnly_setPair_advance s pr _ 1⟩⟩
  · exact (congrArg BitVec.toNat (s.getPair_setPair pr _)).trans (BitVec.toNat_add _ _)
  · exact (congrArg BitVec.toNat (s.getPair_setPair pr _)).trans (toNat_sub_one _)

/-- Settles O41: `HL` reads back as the sum, and `CY` is the only flag written. -/
theorem doubleAdd : Obligations.DoubleAdd := by
  unfold Obligations.DoubleAdd
  intro s pr
  refine ⟨_, rfl, ?_, rfl, ((pairOnly_setPair_advance s .hl _ 1).regOnly nofun).setFlags _⟩
  exact (congrArg BitVec.toNat (s.getPair_setPair .hl _)).trans (BitVec.toNat_ofNat _ _)

end Sys2Proof.Machine

/-! PROOFS. 42_logical.md: the logical, compare, rotate and carry instructions. The ALU's functions are
held against the spec first: one shift to each side, with a bit that enters, is all the four rotates do.
Then each family of instructions is one shape: a result put into `A`, or flags alone, and `PC` goes on
after it. -/

namespace Sys2Proof.Machine

open Sys2Proof.Spec

variable {s : State}

/-! ## The ALU's functions bit by bit (42_logical.md R190, R203 to R207) -/

theorem isLogic_logic8 (res : Byte) : IsLogic (logic8 res).res (logic8 res).flags :=
  ⟨rfl, rfl, zsp_setZSP _ _⟩

/-- A flag as a byte is its bit 0. -/
theorem getLsbD_ofNat_bit (b : Bool) {i : Nat} (hi : i < 8) :
    (BitVec.ofNat 8 (bit b)).getLsbD i = (decide (i = 0) && b) := by
  rw [BitVec.getLsbD_ofNat, decide_eq_true hi, Bool.true_and, bit_eq_toNat, Nat.testBit_bool_toNat]

/-- A shift to the left with `b` entering at bit 0. -/
theorem getLsbD_shiftLeft_or_bit (a : Byte) (b : Bool) {i : Nat} (hi : i < 8) :
    (a <<< 1 ||| BitVec.ofNat 8 (bit b)).getLsbD i = if i = 0 then b else a.getLsbD (i - 1) := by
  rw [BitVec.getLsbD_or, getLsbD_ofNat_bit b hi, BitVec.getLsbD_shiftLeft]
  by_cases h0 : i = 0
  · simp [h0]
  · have h1 : ¬ i < 1 := by omega
    simp [h0, h1, hi]

/-- A shift to the right with `b` entering at bit 7. -/
theorem getLsbD_shiftRight_or_bit (a : Byte) (b : Bool) {i : Nat} (hi : i < 8) :
    (a >>> 1 ||| BitVec.ofNat 8 (bit b) <<< 7).getLsbD i =
      if i = 7 then b else a.getLsbD (i + 1) := by
  rw [BitVec.getLsbD_or, BitVec.getLsbD_ushiftRight, BitVec.getLsbD_shiftLeft,
    getLsbD_ofNat_bit b (Nat.lt_of_le_of_lt (Nat.sub_le i 7) hi), Nat.add_comm 1 i]
  by_cases h7 : i = 7
  · simp [h7]
  · have hlt : i < 7 := by omega
    simp [h7, hlt]

theorem getLsbD_rlc8 (a : Byte) {i : Nat} (hi : i < 8) :
    (rlc8 a).1.getLsbD i = a.getLsbD ((i + 7) % 8) := by
  rw [rlc8, getLsbD_shiftLeft_or_bit _ _ hi]
  split
  · next h0 => rw [h0]
  · next h0 => exact congrArg a.getLsbD (by omega)

theorem getLsbD_rrc8 (a : Byte) {i : Nat} (hi : i < 8) :
    (rrc8 a).1.getLsbD i = a.getLsbD ((i + 1) % 8) := by
  rw [rrc8, getLsbD_shiftRight_or_bit _ _ hi]
  split
  · next h7 => rw [h7]
  · next h7 => exact congrArg a.getLsbD (by omega)

theorem toNat_xor_ff (a : Byte) : (a ^^^ 0xFF).toNat = 255 - a.toNat := by
  have hnot : a ^^^ 0xFF = ~~~a := BitVec.xor_allOnes
  rw [hnot, BitVec.toNat_not]

/-! ## What an update leaves alone (10_state.md R41) -/

theorem regOnly_advance (s : State) (len : Nat) : RegOnly [] len s (s.advance len) where
  regs _ _ := rfl
  sp := rfl
  pc := rfl
  control := ⟨rfl, rfl, rfl, rfl⟩
  mem _ := rfl

theorem regOnly_setFlags_advance (s : State) (f : Flags) (len : Nat) :
    RegOnly [] len s ((s.setFlags f).advance len) := (regOnly_advance s len).setFlags f

theorem regOnly_setCy_advance (s : State) (v : Bool) (len : Nat) :
    RegOnly [] len s ((s.setCy v).advance len) :=
  regOnly_setFlags_advance s { s.flags with cy := v } len

theorem regOnly_putRotate_advance (s : State) (r : Byte × Bool) (len : Nat) :
    RegOnly [.a] len s ((s.putRotate r).advance len) :=
  (regOnly_setReg_advance s .a r.1 len).setFlags { s.flags with cy := r.2 }

/-! ## The meanings, by what they put -/

/-- Behind the read of its second operand, the instruction puts a bitwise result and its flags into `A`. -/
def PutsLogic (i : Instr) (src : AluSrc) (op : Byte → Byte → Byte) (s : State) : Prop :=
  exec i s = s.withOperand src fun v => (s.putReg .a (logic8 (op (s.getReg .a) v))).finish src.len

theorem putsLogic_anaOf (src : AluSrc) (s : State) : PutsLogic (anaOf src) src (· &&& ·) s := by
  cases src with
  | reg | mem | imm => rfl

theorem putsLogic_xraOf (src : AluSrc) (s : State) : PutsLogic (xraOf src) src (· ^^^ ·) s := by
  cases src with
  | reg | mem | imm => rfl

theorem putsLogic_oraOf (src : AluSrc) (s : State) : PutsLogic (oraOf src) src (· ||| ·) s := by
  cases src with
  | reg | mem | imm => rfl

theorem PutsLogic.of_ready {i : Instr} {src : AluSrc} {op : Byte → Byte → Byte}
    (hexec : PutsLogic i src op s) (hready : src.Ready s) :
    ∃ t, exec i s = .next t ∧ t.getReg .a = op (s.getReg .a) (src.value s) ∧
      IsLogic (t.getReg .a) t.flags ∧ RegOnly [.a] src.len s t :=
  ⟨_, hexec.trans (State.withOperand_of_ready hready _), rfl, isLogic_logic8 _,
    regOnly_putReg_advance s .a _ _⟩

theorem exec_cmpOf (src : AluSrc) (s : State) : exec (cmpOf src) s =
    s.withOperand src fun v =>
      (s.setFlags (sub8 (s.getReg .a) v false).flags).finish src.len := by
  cases src with
  | reg | mem | imm => rfl

theorem exec_rlc (s : State) :
    exec .rlc s = .next ((s.putRotate (rlc8 (s.getReg .a))).advance 1) := rfl

theorem exec_rrc (s : State) :
    exec .rrc s = .next ((s.putRotate (rrc8 (s.getReg .a))).advance 1) := rfl

theorem exec_ral (s : State) :
    exec .ral s = .next ((s.putRotate (ral8 (s.getReg .a) s.flags.cy)).advance 1) := rfl

theorem exec_rar (s : State) :
    exec .rar s = .next ((s.putRotate (rar8 (s.getReg .a) s.flags.cy)).advance 1) := rfl

theorem exec_cma (s : State) :
    exec .cma s = .next ((s.setReg .a (s.getReg .a ^^^ 0xFF)).advance 1) := rfl

theorem exec_cmc (s : State) : exec .cmc s = .next ((s.setCy !s.flags.cy).advance 1) := rfl

theorem exec_stc (s : State) : exec .stc s = .next ((s.setCy true).advance 1) := rfl

/-! ## The obligations -/

/-- Settles O37: every form writes the flags of the difference, and no register, once its operand is
read. -/
theorem compareSetsFlagsOnly : Obligations.CompareSetsFlagsOnly := by
  unfold Obligations.CompareSetsFlagsOnly
  intro s src hready
  exact ⟨_, _, (exec_cmpOf src s).trans (State.withOperand_of_ready hready _),
    isDifference_sub8 _ _ _, regOnly_setFlags_advance s _ _⟩

/-- Settles O43: the three operations are one shape of instruction. -/
theorem logicOnAccumulator : Obligations.LogicOnAccumulator := by
  unfold Obligations.LogicOnAccumulator
  intro s src hready
  exact ⟨(putsLogic_anaOf src s).of_ready hready, (putsLogic_xraOf src s).of_ready hready,
    (putsLogic_oraOf src s).of_ready hready⟩

/-- Settles O44: `RAL` and `RAR` shift the old `CY` in, `RLC` and `RRC` the bit at the other end. -/
theorem rotatesMoveEveryBit : Obligations.RotatesMoveEveryBit := by
  unfold Obligations.RotatesMoveEveryBit
  refine ⟨rfl, rfl, rfl, rfl, fun s => ⟨?rlc, ?rrc, ?ral, ?rar⟩⟩
  case rlc =>
    exact ⟨_, exec_rlc s, fun _ hi => getLsbD_rlc8 _ hi, rfl, regOnly_putRotate_advance s _ 1⟩
  case rrc =>
    exact ⟨_, exec_rrc s, fun _ hi => getLsbD_rrc8 _ hi, rfl, regOnly_putRotate_advance s _ 1⟩
  case ral =>
    exact ⟨_, exec_ral s, fun _ hi => getLsbD_shiftLeft_or_bit _ _ hi, rfl,
      regOnly_putRotate_advance s _ 1⟩
  case rar =>
    exact ⟨_, exec_rar s, fun _ hi => getLsbD_shiftRight_or_bit _ _ hi, rfl,
      regOnly_putRotate_advance s _ 1⟩

/-- Settles O45: `CMA` writes `A` alone, `CMC` and `STC` write `CY` alone. -/
theorem complementAndCarry : Obligations.ComplementAndCarry := by
  unfold Obligations.ComplementAndCarry
  refine ⟨rfl, rfl, rfl, fun s => ⟨?cma, ?cmc, ?stc⟩⟩
  case cma =>
    exact ⟨_, exec_cma s, toNat_xor_ff _, rfl, regOnly_setReg_advance s .a _ 1⟩
  case cmc =>
    exact ⟨_, exec_cmc s, rfl, regOnly_setCy_advance s _ 1⟩
  case stc =>
    exact ⟨_, exec_stc s, rfl, regOnly_setCy_advance s true 1⟩

end Sys2Proof.Machine

/-! PROOFS. 43_control_flow.md: jumps, calls and returns. The condition the model tests is the table's, and
every transfer on a condition is one shape; a taken call is then a call to its target, and a taken return
one pop of `PC`. -/

namespace Sys2Proof

/-! ## The bytes of a word as numbers (00_scope.md R12) -/

theorem toNat_joinBytes (hi lo : Byte) : (joinBytes hi lo).toNat = hi.toNat * 256 + lo.toNat := by
  rw [joinBytes, BitVec.toNat_append, ← Nat.shiftLeft_add_eq_or_of_lt lo.isLt, Nat.shiftLeft_eq]

end Sys2Proof

namespace Sys2Proof.Machine

open Sys2Proof.Spec

variable {s : State}

/-! ## Conditions (43_control_flow.md R220) -/

theorem condHolds_eq_true_iff (f : Flags) (cond : Cond) :
    condHolds f cond = true ↔ condTable f cond := by
  cases cond with
  | z | c | pe | m => exact Iff.rfl
  | nz | nc | po | p => exact Iff.of_eq (Bool.not_eq_true' _)

theorem condHolds_eq_false_iff (f : Flags) (cond : Cond) :
    condHolds f cond = false ↔ ¬ condTable f cond := by
  rw [← condHolds_eq_true_iff, Bool.not_eq_true]

/-! ## The meanings, by the condition they test (R221 to R251) -/

theorem exec_jumpOn (cond : Cond) (a : Word) (s : State) :
    exec (jumpOn cond a) s = s.jumpIf (condHolds s.flags cond) a := by
  cases cond with
  | nz | z | nc | c | po | pe | p | m => rfl

theorem exec_callOn (cond : Cond) (a : Word) (s : State) :
    exec (callOn cond a) s = s.callIf (condHolds s.flags cond) a := by
  cases cond with
  | nz | z | nc | c | po | pe | p | m => rfl

theorem exec_returnOn (cond : Cond) (s : State) :
    exec (returnOn cond) s = s.returnIf (condHolds s.flags cond) := by
  cases cond with
  | nz | z | nc | c | po | pe | p | m => rfl

/-! ## Taken calls and returns (R232, R242, R252) -/

theorem exec_callForm_of_taken {form : CallForm} (h : form.Taken s) :
    exec form.instr s = s.callTo form.len form.target := by
  cases form with
  | call | rst => rfl
  | on cond a =>
    have hc : condHolds s.flags cond = true := (condHolds_eq_true_iff s.flags cond).2 h
    exact (exec_callOn cond a s).trans (if_pos hc)

theorem exec_returnForm_of_taken {form : ReturnForm} (h : form.Taken s) :
    exec form.instr s = s.popPc := by
  cases form with
  | ret => rfl
  | on cond =>
    have hc : condHolds s.flags cond = true := (condHolds_eq_true_iff s.flags cond).2 h
    exact (exec_returnOn cond s).trans (if_pos hc)

theorem State.callTo_of_canPush (h : CanPush s) (len : Nat) (target : Word) :
    s.callTo len target = .next ((((s.poke (s.sp - 1) (hiByte (s.nextPc len))).poke (s.sp - 2)
      (loByte (s.nextPc len))).setSp (s.sp - 2)).setPc target) := by
  obtain ⟨hhi, hlo⟩ := h
  exact State.callTo_eq_next.2 ⟨⟨(s.inRange_iff _).2 hhi, (s.inRange_iff _).2 hlo⟩, rfl⟩

theorem State.popPc_of_canPop (h : CanPop s) :
    s.popPc = .next ((s.setSp (s.sp + 2)).setPc (joinBytes (s.peek (s.sp + 1)) (s.peek s.sp))) := by
  obtain ⟨hlo, hhi⟩ := h
  exact State.popPc_eq_next.2 ⟨⟨(s.inRange_iff _).2 hlo, (s.inRange_iff _).2 hhi⟩, rfl⟩

/-! ## The obligations -/

/-- Settles O47: the two bytes pushed have different addresses even where `SP` wraps, so that the second
store leaves the first. -/
theorem takenCallPushesReturnAddress : Obligations.TakenCallPushesReturnAddress := by
  unfold Obligations.TakenCallPushesReturnAddress
  intro s form hwf htaken hpush
  refine ⟨_, (exec_callForm_of_taken htaken).trans (State.callTo_of_canPush hpush _ _), rfl, rfl,
    ?high, ?low, sameMemOutside_poke_poke s _ _ _ _, fun _ _ => rfl, rfl, ⟨rfl, rfl, rfl, rfl⟩⟩
  case high =>
    rw [State.peek_setPc, State.peek_setSp,
      s.peek_poke_poke_first _ _ hwf (sub_one_ne_sub_two s.sp), toNat_hiByte]
    rfl
  case low =>
    rw [State.peek_setPc, State.peek_setSp, s.peek_poke_poke_second _ _ _ _ hwf, toNat_loByte]
    rfl

/-- Settles O46: a jump writes `PC` alone, and the two ways of one on a condition differ in what it
writes there. -/
theorem jumpsSetPcOnly : Obligations.JumpsSetPcOnly := by
  unfold Obligations.JumpsSetPcOnly
  refine fun s a => ⟨rfl, rfl, fun cond => ⟨fun htaken => ?taken, fun hnot => ?notTaken⟩⟩
  case taken =>
    rw [exec_jumpOn, (condHolds_eq_true_iff _ _).2 htaken]
    rfl
  case notTaken =>
    rw [exec_jumpOn, (condHolds_eq_false_iff _ _).2 hnot]
    rfl

/-- Settles O48: the two bytes popped are the halves of the word that `PC` becomes. -/
theorem takenReturnPopsPc : Obligations.TakenReturnPopsPc := by
  unfold Obligations.TakenReturnPopsPc
  intro s form htaken hpop
  exact ⟨_, (exec_returnForm_of_taken htaken).trans (State.popPc_of_canPop hpop),
    toNat_joinBytes _ _, rfl, fun _ => rfl, fun _ _ => rfl, rfl, ⟨rfl, rfl, rfl, rfl⟩⟩

/-- Settles O49: behind a false condition the stack is not accessed. -/
theorem notTakenCallsAndReturnsOnlyAdvance : Obligations.NotTakenCallsAndReturnsOnlyAdvance := by
  unfold Obligations.NotTakenCallsAndReturnsOnlyAdvance
  intro s cond hnot
  have hc : condHolds s.flags cond = false := (condHolds_eq_false_iff s.flags cond).2 hnot
  constructor
  · intro a
    rw [exec_callOn, hc]
    rfl
  · rw [exec_returnOn, hc]
    rfl

end Sys2Proof.Machine

/-! PROOFS. 44_stack.md: the stack. Every push is the push of one word, and every pop puts the word on top of
the stack where it belongs; what was just pushed is the word on top. Of `PSW` the flag byte is laid out bit
by bit (10_state.md R32), and unpacking it gives the flags back. -/

namespace Sys2Proof.Machine

open Sys2Proof.Spec

variable {s : State}

/-! ## The packed flag byte (10_state.md R32) -/

/-- The bits of the packed flag byte as the binary digits of its value, from bit 0 up. -/
theorem getLsbD_pswByte (f : Flags) {i : Nat} (hi : i < 8) : (pswByte f).getLsbD i =
    (Nat.bit f.cy <| Nat.bit true <| Nat.bit f.p <| Nat.bit false <| Nat.bit f.ac <| Nat.bit false <|
      Nat.bit f.z <| Nat.bit f.s 0).testBit i := by
  rw [pswByte, BitVec.getLsbD_ofNat, decide_eq_true hi, Bool.true_and]
  congr 1
  simp only [bit_eq_toNat, Nat.bit_val, Bool.toNat_true, Bool.toNat_false]
  omega

theorem isPsw_pswByte (f : Flags) : IsPsw f (pswByte f) := by
  constructor
  all_goals
    rw [getLsbD_pswByte f (by decide)]
    simp only [Nat.testBit_bit_succ, Nat.testBit_bit_zero]

theorem unpackPsw_of_isPsw {f : Flags} {v : Byte} (h : IsPsw f v) : unpackPsw v = f := by
  rw [unpackPsw, h.b7, h.b6, h.b4, h.b2, h.b0]

/-! ## What an update leaves alone (10_state.md R41) -/

theorem SameMem.peek_eq {t : State} (h : SameMem s t) (a : Word) : t.peek a = s.peek a := h a.toNat

/-- A register written with the value it had is not changed. -/
theorem SameRegsBut.of_written {t : State} {x : Reg8} (h : SameRegsBut [x] s t)
    (hx : t.getReg x = s.getReg x) : SameRegsBut [] s t := by
  intro r _
  by_cases hr : r = x
  · rwa [hr]
  · exact h r (mt List.mem_singleton.1 hr)

/-! ## A push is the push of one word (R270, R272, R273) -/

/-- The word a push writes: of `PSW`, `A` is the high half (decision D29). -/
def pushWord (s : State) : PushForm → Word
  | .pair pr => s.getPair pr
  | .psw => joinBytes (s.getReg .a) (pswByte s.flags)

theorem bytes_pushWord (form : PushForm) (s : State) :
    form.Bytes s (hiByte (pushWord s form)) (loByte (pushWord s form)) := by
  cases form with
  | pair pr =>
    cases pr with
    | bc | de | hl => exact ⟨hiByte_joinBytes _ _, loByte_joinBytes _ _⟩
    | sp =>
      show (hiByte s.sp).toNat * 256 + (loByte s.sp).toNat = s.sp.toNat
      rw [← toNat_joinBytes, joinBytes_hiByte_loByte]
  | psw =>
    refine ⟨hiByte_joinBytes _ _, ?_⟩
    rw [pushWord, loByte_joinBytes]
    exact isPsw_pswByte s.flags

/-- The state after an instruction of one byte that pushes `v`. -/
def State.pushed (s : State) (v : Word) : State :=
  (((s.poke (s.sp - 1) (hiByte v)).poke (s.sp - 2) (loByte v)).setSp (s.sp - 2)).advance 1

theorem exec_pushForm_of_canPush (form : PushForm) (h : CanPush s) :
    exec form.instr s = .next (s.pushed (pushWord s form)) := by
  obtain ⟨hhi, hlo⟩ := h
  have hexec : exec form.instr s = s.push16 (pushWord s form) fun t => t.finish 1 := by
    cases form with
    | pair | psw => rfl
  rw [hexec, State.push16_eq_next]
  exact ⟨⟨(s.inRange_iff _).2 hhi, (s.inRange_iff _).2 hlo⟩, rfl⟩

theorem State.peek_pushed_high (s : State) (v : Word) (hwf : s.mem.wf = true) :
    (s.pushed v).peek (s.sp - 1) = hiByte v :=
  s.peek_poke_poke_first _ _ hwf (sub_one_ne_sub_two s.sp)

theorem State.peek_pushed_low (s : State) (v : Word) (hwf : s.mem.wf = true) :
    (s.pushed v).peek (s.sp - 2) = loByte v :=
  s.peek_poke_poke_second _ _ _ _ hwf

theorem State.joinBytes_peek_pushed (s : State) (v : Word) (hwf : s.mem.wf = true) :
    joinBytes ((s.pushed v).peek (s.sp - 1)) ((s.pushed v).peek (s.sp - 2)) = v := by
  rw [s.peek_pushed_high v hwf, s.peek_pushed_low v hwf, joinBytes_hiByte_loByte]

/-! ## A pop reads the word on top of the stack (R271, R274, R275) -/

theorem Pair.ne_sp_of_isStackable {x : Pair} (h : x.isStackable = true) : x ≠ .sp := by
  rintro rfl
  cases h

/-- The word on top of the stack. -/
def State.topWord (s : State) : Word := joinBytes (s.peek (s.sp + 1)) (s.peek s.sp)

/-- The state after `POP` of a pair. -/
def State.poppedPair (s : State) (x : Pair) : State :=
  ((s.setSp (s.sp + 2)).setPair x s.topWord).advance 1

/-- The state after `POP PSW`. -/
def State.poppedPsw (s : State) : State :=
  (((s.setSp (s.sp + 2)).setReg .a (hiByte s.topWord)).setFlags
    (unpackPsw (loByte s.topWord))).advance 1

theorem State.load16_of_canPop (h : CanPop s) (k : Word → Result) : s.load16 s.sp k = k s.topWord := by
  obtain ⟨hlo, hhi⟩ := h
  exact (State.check_of_inRange ((s.inRange_iff _).2 hlo)).trans
    (State.check_of_inRange ((s.inRange_iff _).2 hhi))

theorem State.pop16_of_canPop (h : CanPop s) (k : Word → State → Result) :
    s.pop16 k = k s.topWord (s.setSp (s.sp + 2)) :=
  State.load16_of_canPop h fun v => k v (s.setSp (s.sp + 2))

theorem exec_pop_of_canPop (x : Pair) (h : CanPop s) : exec (.pop x) s = .next (s.poppedPair x) :=
  State.pop16_of_canPop h fun v t => (t.setPair x v).finish 1

theorem exec_popPsw_of_canPop (h : CanPop s) : exec .popPsw s = .next s.poppedPsw :=
  State.pop16_of_canPop h fun v t =>
    ((t.setReg .a (hiByte v)).setFlags (unpackPsw (loByte v))).finish 1

/-- What a pop leaves alone: `SP` is more by 2, `PC` goes past the one byte, and only the registers
`written` and the flags may change. What it does to the flags is said beside it. -/
structure PopOnly (written : List Reg8) (s t : State) : Prop where
  regs : SameRegsBut written s t
  sp : t.sp = s.sp + 2
  pc : t.pc = s.pc + 1
  mem : SameMem s t
  control : SameControl s t

theorem RegOnly.popOnly {written : List Reg8} {t : State}
    (h : RegOnly written 1 (s.setSp (s.sp + 2)) t) : PopOnly written s t where
  regs := h.regs
  sp := h.sp
  pc := h.pc
  mem := h.mem
  control := ⟨h.control.inte, h.control.status, h.control.io, h.control.cfg⟩

theorem popOnly_poppedPair (s : State) {x : Pair} (h : x ≠ .sp) :
    PopOnly (pairHalves x) s (s.poppedPair x) :=
  ((pairOnly_setPair_advance (s.setSp (s.sp + 2)) x s.topWord 1).regOnly h).popOnly

theorem popOnly_poppedPsw (s : State) : PopOnly [.a] s s.poppedPsw :=
  ((regOnly_setReg_advance (s.setSp (s.sp + 2)) .a (hiByte s.topWord) 1).setFlags _).popOnly

theorem State.getPair_poppedPair (s : State) (x : Pair) : (s.poppedPair x).getPair x = s.topWord :=
  State.getPair_setPair _ x _

theorem State.flags_poppedPair (s : State) (x : Pair) : (s.poppedPair x).flags = s.flags :=
  State.setPair_flags _ x _

/-! ## A pop after a push (R278) -/

/-- The byte after the new top of the stack is the byte below the old one. -/
theorem sub_two_add_one (v : Word) : v - 2 + 1 = v - 1 := by bv_omega

theorem canPop_pushed (h : CanPush s) (v : Word) : CanPop (s.pushed v) := by
  obtain ⟨hhi, hlo⟩ := h
  refine ⟨hlo, ?_⟩
  show (s.sp - 2 + 1).toNat < s.cfg.memSize
  rwa [sub_two_add_one]

theorem State.topWord_pushed (s : State) (v : Word) (hwf : s.mem.wf = true) :
    (s.pushed v).topWord = v := by
  show joinBytes ((s.pushed v).peek (s.sp - 2 + 1)) ((s.pushed v).peek (s.sp - 2)) = v
  rw [sub_two_add_one]
  exact s.joinBytes_peek_pushed v hwf

/-! ## The exchange with the top of the stack (R276) -/

/-- The state after `XTHL`. -/
def State.exchangedTop (s : State) : State :=
  (((s.poke s.sp (s.getReg .l)).poke (s.sp + 1) (s.getReg .h)).setPair .hl s.topWord).advance 1

theorem exec_xthl_of_canPop (h : CanPop s) : exec .xthl s = .next s.exchangedTop :=
  State.load16_of_canPop h fun v =>
    (((s.poke s.sp s.regs.l).poke (s.sp + 1) s.regs.h).setPair .hl v).finish 1

/-! ## The obligations -/

/-- Settles O50: the two bytes pushed have different addresses even where `SP` wraps, so that the second
store leaves the first. -/
theorem pushStoresHighByteAbove : Obligations.PushStoresHighByteAbove := by
  unfold Obligations.PushStoresHighByteAbove
  intro s form hwf hpush
  refine ⟨_, exec_pushForm_of_canPush form hpush, ?bytes, rfl, rfl,
    sameMemOutside_poke_poke s _ _ _ _, fun _ _ => rfl, rfl, ⟨rfl, rfl, rfl, rfl⟩⟩
  case bytes =>
    rw [s.peek_pushed_high _ hwf, s.peek_pushed_low _ hwf]
    exact bytes_pushWord form s

/-- Settles O53: the word on top of the stack after a push is the word pushed, and a pop writes no memory. -/
theorem popAfterPushRestores : Obligations.PopAfterPushRestores := by
  unfold Obligations.PopAfterPushRestores
  intro s hwf hpush
  refine ⟨fun pr qr _ hqr => ?pair, ?psw⟩
  case pair =>
    obtain ⟨hregs, hsp, -, hmem, -⟩ :=
      popOnly_poppedPair (s.pushed (s.getPair pr)) (Pair.ne_sp_of_isStackable hqr)
    refine ⟨_, _, exec_pushForm_of_canPush (.pair pr) hpush,
      exec_pop_of_canPop qr (canPop_pushed hpush (s.getPair pr)), ?value, hregs,
      hsp.trans (BitVec.sub_add_cancel s.sp 2), State.flags_poppedPair _ qr, hmem, ?below⟩
    case value => exact (State.getPair_poppedPair _ qr).trans (s.topWord_pushed _ hwf)
    case below =>
      rw [pushWord, hmem.peek_eq, hmem.peek_eq]
      exact s.joinBytes_peek_pushed _ hwf
  case psw =>
    obtain ⟨hregs, hsp, -, hmem, -⟩ := popOnly_poppedPsw (s.pushed (pushWord s .psw))
    obtain ⟨hhigh, hlow⟩ := bytes_pushWord .psw s
    have htop : (s.pushed (pushWord s .psw)).topWord = pushWord s .psw := s.topWord_pushed _ hwf
    refine ⟨_, _, exec_pushForm_of_canPush .psw hpush, exec_popPsw_of_canPop (canPop_pushed hpush _),
      SameRegsBut.of_written hregs ?acc, ?flags, hsp.trans (BitVec.sub_add_cancel s.sp 2), hmem,
      ?high, ?low⟩
    case acc => exact (congrArg hiByte htop).trans hhigh
    case flags => exact (congrArg (unpackPsw <| loByte ·) htop).trans (unpackPsw_of_isPsw hlow)
    case high => rw [hmem.peek_eq, s.peek_pushed_high _ hwf, hhigh]
    case low => rwa [hmem.peek_eq, s.peek_pushed_low _ hwf]

/-- Settles O54: the two bytes written have different addresses even where the second wraps, and both are
read before either is written. -/
theorem exchangeHlWithStack : Obligations.ExchangeHlWithStack := by
  unfold Obligations.ExchangeHlWithStack
  intro s hwf hpop
  exact ⟨_, exec_xthl_of_canPop hpop, loByte_joinBytes _ _, hiByte_joinBytes _ _,
    s.peek_poke_poke_first _ _ hwf (add_one_ne s.sp).symm, s.peek_poke_poke_second _ _ _ _ hwf,
    rfl, rfl, sameMemOutside_poke_poke s _ _ _ _, sameRegsBut_setPair s .hl s.topWord, rfl,
    ⟨rfl, rfl, rfl, rfl⟩⟩

/-- Settles O51: the two bytes popped are the halves of the word that the pair becomes. -/
theorem popLoadsPair : Obligations.PopLoadsPair := by
  unfold Obligations.PopLoadsPair
  intro s pr hpr hpop
  have hne : pr ≠ .sp := Pair.ne_sp_of_isStackable hpr
  obtain ⟨hregs, hsp, hpc, hmem, hcontrol⟩ := popOnly_poppedPair s hne
  refine ⟨_, exec_pop_of_canPop pr hpop, ?low, ?high, hsp, hpc, hmem, hregs,
    s.flags_poppedPair pr, hcontrol⟩
  case low => exact (State.getReg_lowReg_setPair _ hne _).trans (loByte_joinBytes _ _)
  case high => exact (State.getReg_highReg_setPair _ hne _).trans (hiByte_joinBytes _ _)

/-- Settles O52: the two bytes popped are the halves of the word that `A` and the flags come from. -/
theorem popPswLoadsAccumulatorAndFlags : Obligations.PopPswLoadsAccumulatorAndFlags := by
  unfold Obligations.PopPswLoadsAccumulatorAndFlags
  intro s hpop
  obtain ⟨hregs, hsp, hpc, hmem, hcontrol⟩ := popOnly_poppedPsw s
  exact ⟨_, exec_popPsw_of_canPop hpop, hiByte_joinBytes _ _, congrArg unpackPsw (loByte_joinBytes _ _),
    hsp, hpc, hmem, hregs, hcontrol⟩

/-- Settles O55: the meaning checks nothing and writes `SP` and `PC`. -/
theorem sphlSetsSp : Obligations.SphlSetsSp := by
  unfold Obligations.SphlSetsSp
  exact ⟨rfl, fun _ => rfl⟩

end Sys2Proof.Machine

/-! PROOFS. 45_machine_control.md: what the host reads off a machine that has stopped, what `UNDOC_ALIAS`
makes of the five undefined bytes of quadrant 11, and the one-byte instructions that access no memory. -/

namespace Sys2Proof

/-! ## The five undefined bytes of quadrant 11 (R295) -/

theorem UndefHigh.exists_byte_eq {b : Byte} (h : b ∈ ([0xCB, 0xD9, 0xDD, 0xED, 0xFD] : List Byte)) :
    ∃ u : UndefHigh, b = u.byte := by
  simp only [List.mem_cons, List.not_mem_nil, or_false] at h
  obtain rfl | rfl | rfl | rfl | rfl := h
  · exact ⟨.cb, rfl⟩
  · exact ⟨.d9, rfl⟩
  · exact ⟨.dd, rfl⟩
  · exact ⟨.ed, rfl⟩
  · exact ⟨.fd, rfl⟩

theorem decodeOp_undefHigh_byte (u : UndefHigh) (b1 b2 : Byte) :
    decodeOp u.byte b1 b2 = .undefHigh u := by
  cases u with
  | cb | d9 | dd | ed | fd => rfl

theorem opcodeFormat_undefHigh_byte (u : UndefHigh) : opcodeFormat u.byte = .f1 :=
  congrArg Instr.format (decodeOp_undefHigh_byte u 0 0)

end Sys2Proof

namespace Sys2Proof.Machine

variable {s t : State}

/-! ## A step by the opcode byte as `UNDOC_ALIAS` has it read (R295) -/

/-- The step of a machine whose opcode byte is known, once all bytes of the instruction are in range. -/
theorem step_of_opcode {op : Byte} (hrun : s.status = .running) (hop : s.opcodeOf (s.peek s.pc) = op)
    (hin : s.fetchInRange (opcodeFormat op) = true) :
    step s = exec (decodeOp op (s.peek (s.pc + 1)) (s.peek (s.pc + 2))) s := by
  subst hop
  rw [step_of_inRange hrun hin, State.currentInstr_eq]

/-- The opcode byte under `chip`, when the byte at `PC` is known. -/
theorem State.opcodeOf_peek_of_chip {b : Byte} (hchip : s.cfg.undocAlias = .chip) (hb : s.peek s.pc = b) :
    s.opcodeOf (s.peek s.pc) = aliasOpcode .chip b := by
  rw [hb, State.opcodeOf, hchip]

/-! ## What the host reads off a step and off the machine (60_exceptions.md R335, R340) -/

theorem hostStep_of_next (h : step s = .next t) : hostStep s = (t, t.report) := by
  rw [hostStep, h]

theorem hostStep_of_fault {f : Fault} (h : step s = .fault f) :
    hostStep s = (s.enterFault, .fault f) := by
  rw [hostStep, h]

theorem State.report_of_halted (h : s.status = .halted) : s.report = .halted := by
  rw [State.report, h]

theorem State.isDone_of_not_running (h : s.status ≠ .running) : s.isDone = true := by
  simp [State.isDone, h]

/-! ## Stopped machines (R296) -/

theorem State.enterFault_of_faulted (h : s.status = .faulted) : s.enterFault = s := by
  show { s with status := .faulted } = s
  rw [← h]

/-- Whatever a step in `Faulted` repeats, the host's machine stays as it is. -/
theorem hostStep_fst_of_faulted (h : s.status = .faulted) : (hostStep s).1 = s := by
  cases hstep : step s with
  | next t => exact absurd ((step_of_faulted h).symm.trans hstep) repeatFault_ne_next
  | fault f => rw [hostStep_of_fault hstep, State.enterFault_of_faulted h]
  | refused r => rw [hostStep, hstep]

theorem run_of_halted (h : s.status = .halted) (k : Nat) : Sys2Proof.core.run k s = .next s := by
  induction k with
  | zero => rfl
  | succ k ih => rw [run_succ (step_of_halted h), ih]

/-! ## The meanings (R290 to R295) -/

theorem exec_nop (s : State) : exec .nop s = .next (s.advance 1) := rfl

theorem exec_undefLow (x : BitVec 3) (s : State) : exec (.undefLow x) s = .next (s.advance 1) := rfl

theorem exec_undefHigh (u : UndefHigh) (s : State) : exec (.undefHigh u) s = .next (s.advance 1) := rfl

theorem exec_hlt (s : State) : exec .hlt s = .next ((s.setStatus .halted).advance 1) := rfl

theorem exec_ei (s : State) : exec .ei s = .next ((s.setInte true).advance 1) := rfl

theorem exec_di (s : State) : exec .di s = .next ((s.setInte false).advance 1) := rfl

/-! ## The obligations -/

/-- Settles O6: a halted machine steps to itself, and a faulted one repeats the fault of the same state
taken as `Running`, where entering the fault again changes nothing. -/
theorem stoppedMachineDoesNothing : Obligations.StoppedMachineDoesNothing := by
  unfold Obligations.StoppedMachineDoesNothing
  refine ⟨fun s hs => ?halted, fun s hs => ?faulted⟩
  case halted =>
    have hstep : step s = .next s := step_of_halted hs
    refine ⟨hstep, ?_, State.isDone_of_not_running (hs ▸ nofun)⟩
    rw [hostStep_of_next hstep, State.report_of_halted hs]
  case faulted =>
    refine ⟨hostStep_fst_of_faulted hs, fun t => step_of_faulted hs ▸ repeatFault_ne_next,
      State.isDone_of_not_running (hs ▸ nofun), fun f hf => ?_⟩
    have hstep : step s = .fault f := (step_of_faulted hs).trans (repeatFault_eq_fault.2 hf)
    exact ⟨hstep, by rw [hostStep_of_fault hstep, State.enterFault_of_faulted hs]⟩

/-- Settles O9: `chip` turns each of the five bytes into the opcode byte of `RET`, `JMP` or `CALL` before it
is decoded, and `nop` leaves it as it stands. -/
theorem undocAliasChoosesTheFiveBytes : Obligations.UndocAliasChoosesTheFiveBytes := by
  unfold Obligations.UndocAliasChoosesTheFiveBytes
  intro s hrun hpc
  have hin1 : s.fetchInRange .f1 = true := (s.inRange_iff _).2 hpc
  refine ⟨fun hchip => ⟨fun hb => ?ret, fun hpc1 hpc2 => ?threeBytes⟩, fun hnop hmem => ?nop⟩
  case ret => exact step_of_opcode hrun (State.opcodeOf_peek_of_chip hchip hb) hin1
  case threeBytes =>
    have hin3 : s.fetchInRange .f3 = true := by
      simp only [State.fetchInRange, Bool.and_eq_true, State.inRange_iff]
      exact ⟨⟨hpc, hpc1⟩, hpc2⟩
    refine ⟨fun hb => step_of_opcode hrun (State.opcodeOf_peek_of_chip hchip hb) hin3, ?call⟩
    rintro (hb | hb | hb) <;>
      exact step_of_opcode hrun (State.opcodeOf_peek_of_chip hchip hb) hin3
  case nop =>
    obtain ⟨u, hu⟩ := UndefHigh.exists_byte_eq hmem
    obtain ⟨-, hasItStands⟩ := stepRunsTheDecodedInstruction
    rw [step_of_opcode hrun ((hasItStands s _ hnop).trans hu)
      ((opcodeFormat_undefHigh_byte u).symm ▸ hin1), decodeOp_undefHigh_byte, exec_undefHigh]
    rfl

/-- Settles O57: `HLT` leaves a halted machine, and a halted machine steps to itself. -/
theorem haltIsTerminal : Obligations.HaltIsTerminal := by
  unfold Obligations.HaltIsTerminal
  intro s
  have hhalted : ((s.setStatus .halted).advance 1).status = .halted := rfl
  exact ⟨_, exec_hlt s, rfl, State.report_of_halted hhalted,
    State.isDone_of_not_running (hhalted ▸ nofun), run_of_halted hhalted⟩

/-- Settles O56: the three meanings only go past the one byte. -/
theorem nopAdvancesOnly : Obligations.NopAdvancesOnly := by
  unfold Obligations.NopAdvancesOnly
  exact fun s => ⟨exec_nop s, fun x => exec_undefLow x s, fun u => exec_undefHigh u s⟩

/-- Settles O58: the two meanings set `INTE` and go past the one byte. -/
theorem enableAndDisableInterrupts : Obligations.EnableAndDisableInterrupts := by
  unfold Obligations.EnableAndDisableInterrupts
  exact ⟨rfl, rfl, fun s => ⟨exec_ei s, exec_di s⟩⟩

end Sys2Proof.Machine

/-! PROOFS. 46_io.md: the two instructions that reach the port controller. What a port write and a port read
do is said once per port; `OUT` and `IN` then only carry `A` to and from the controller. -/

namespace Sys2Proof.Machine

/-! ## The port controller (R313 to R316) -/

theorem IoPorts.portWrite_two (io : IoPorts) (v : Byte) :
    io.portWrite 2 v = { io with offset := v.extractLsb' 0 3 } := rfl

theorem IoPorts.portWrite_four (io : IoPorts) (v : Byte) :
    io.portWrite 4 v = { io with shift0 := io.shift1, shift1 := v } := rfl

/-- Bits `2:0` of a byte are its value modulo 8 (R313). -/
theorem toNat_extractLsb'_low_three (v : Byte) : (v.extractLsb' 0 3).toNat = v.toNat % 8 := by
  rw [BitVec.extractLsb'_toNat, Nat.shiftRight_zero]

/-- The slice of the window as R315 computes it. -/
theorem IoPorts.toNat_portRead_three (io : IoPorts) :
    (io.portRead 3).toNat =
      (io.shift1.toNat * 256 + io.shift0.toNat) / 2 ^ (8 - io.offset.toNat) % 256 := by
  rw [IoPorts.portRead, if_pos rfl, BitVec.toNat_setWidth, BitVec.toNat_ushiftRight,
    Nat.shiftRight_eq_div_pow, IoPorts.window, toNat_joinBytes]

/-! ## The meanings (R311, R312) -/

theorem exec_out (port : Byte) (s : State) :
    exec (.out port) s = .next ((s.setIo (s.io.portWrite port (s.getReg .a))).advance 2) := rfl

theorem exec_inp (port : Byte) (s : State) :
    exec (.inp port) s = .next ((s.setReg .a (s.io.portRead port)).advance 2) := rfl

/-! ## The obligations -/

/-- Settles O59: the controller after `OUT` is the one `PortWrite` gives for the port and `A`. -/
theorem outWritesThePortController : Obligations.OutWritesThePortController := by
  unfold Obligations.OutWritesThePortController
  intro s port
  refine ⟨_, exec_out port s, ?offset, ?shift, fun h2 h4 => ?other, rfl⟩ <;>
    rw [State.advance_io, State.setIo_io]
  case offset =>
    rintro rfl
    rw [IoPorts.portWrite_two]
    exact ⟨toNat_extractLsb'_low_three _, rfl, rfl⟩
  case shift =>
    rintro rfl
    rw [IoPorts.portWrite_four]
    exact ⟨rfl, rfl, rfl⟩
  case other => exact s.io.portWrite_of_ne _ h2 h4

/-- Settles O60: `A` after `IN` is what `PortRead` gives for the port, and nothing but `PC` is written
beside it. -/
theorem inReadsTheWindow : Obligations.InReadsTheWindow := by
  unfold Obligations.InReadsTheWindow
  intro s port
  refine ⟨_, exec_inp port s, ?slice, fun h3 => ?other, rfl, regOnly_setReg_advance s .a _ 2⟩ <;>
    rw [State.getReg_advance, State.getReg_setReg_same]
  case slice =>
    rintro rfl
    exact s.io.toNat_portRead_three
  case other => exact s.io.portRead_of_ne h3

end Sys2Proof.Machine

/-! PROOFS. 60_exceptions.md and 70_reset_and_hazards.md: when an instruction completes and which fault it
raises otherwise, what fault entry leaves alone, `is_done()`, and the machine `load` builds. -/

namespace Sys2Proof.Machine

open Sys2Proof.Spec

variable {s : State}

/-! ## An instruction as the range checks of its data accesses (60_exceptions.md R332, R334) -/

/-- Behind its range checks an instruction answers a next state: only a range check can stop it. -/
theorem exec_eq_checkAll_next (i : Instr) (s : State) :
    ∃ t, exec i s = s.checkAll (dataAccesses s i) (.next t) := by
  obtain ⟨u, hu⟩ := exec_completes i
  exact ⟨u s, hu.exec_eq s⟩

theorem firstOutOfRange_eq_find? (s : State) (i : Instr) :
    firstOutOfRange s i = (dataAccesses s i).find? fun x => !s.inRange x.2 := by
  simp only [firstOutOfRange, State.inRange, ← decide_not, Nat.not_lt]

/-! ## Fault entry and `is_done()` (60_exceptions.md R335, R340) -/

/-- The host's step after fault entry reports the same fault and leaves the machine as fault entry did. -/
theorem hostStep_enterFault {f : Fault} (h : step s = .fault f) :
    hostStep s.enterFault = (s.enterFault, .fault f) := by
  have hself : s.enterFault.enterFault = s.enterFault := State.enterFault_of_faulted rfl
  rw [hostStep_of_fault (step_enterFault h), hself]

theorem State.isDone_iff (s : State) :
    s.isDone = true ↔ s.status ≠ .running ∨ s.cfg.memSize ≤ s.pc.toNat := by
  rw [State.isDone, Bool.or_eq_true, bne_iff_ne, Bool.not_eq_true', State.inRange_eq_false_iff]

/-! ## The machine `load` builds (70_reset_and_hazards.md R360, R362) -/

/-- The reset machine with its memory, `PC` and parameters replaced by those `load` is given. -/
def State.loaded (image : List Byte) (cfg : Config) (resetPc : Word) : State :=
  { State.reset with mem := Memory.ofBytesFrom 0 image, pc := resetPc, cfg := cfg }

theorem load_eq_ok {image : List Byte} {cfg : Config} {resetPc : Word} :
    load image cfg resetPc = .ok s ↔
      (cfg.Legal ∧ image.length = cfg.memSize) ∧ s = .loaded image cfg resetPc := by
  unfold load
  by_cases hlegal : cfg.Legal
  · by_cases hlen : image.length = cfg.memSize
    · rw [if_neg (not_not_intro hlegal), if_neg (not_not_intro hlen)]
      exact ⟨fun h => ⟨⟨hlegal, hlen⟩, (Except.ok.inj h).symm⟩, fun ⟨_, h⟩ => congrArg _ h.symm⟩
    · simp [hlegal, hlen]
  · simp [hlegal]

theorem State.loaded_mem_read (image : List Byte) (cfg : Config) (resetPc : Word) (i : Nat) :
    (State.loaded image cfg resetPc).mem.read i = image.getD i 0 :=
  (congrArg _ (Nat.zero_add i).symm).trans (MemoryLaws.read_ofBytesFrom 0 i image)

theorem State.loaded_inv {image : List Byte} {cfg : Config} (hlegal : cfg.Legal)
    (hlen : image.length = cfg.memSize) (resetPc : Word) :
    (State.loaded image cfg resetPc).Inv where
  legal := hlegal
  wf := MemoryLaws.ofBytesFrom_wfFrom 0 image
  below := by
    have hbelow := MemoryLaws.ofBytesFrom_below 0 image
    rwa [Nat.zero_add, hlen] at hbelow
  settled := nofun

/-! ## The obligations -/

/-- Settles O15: the range checks of the data accesses are all that stands before the next state. -/
theorem instructionCompletesExactlyWhenInRange :
    Obligations.InstructionCompletesExactlyWhenInRange := by
  unfold Obligations.InstructionCompletesExactlyWhenInRange
  intro i s
  obtain ⟨t, ht⟩ := exec_eq_checkAll_next i s
  simp only [ht, State.checkAll_eq_next, State.inRange_iff]
  exact ⟨fun ⟨_, hin, _⟩ => hin, fun hin => ⟨t, hin, rfl⟩⟩

/-- Settles O16: the range checks run in the order of the data accesses, and the first that fails stops the
instruction. -/
theorem firstOutOfRangeAccessIsReported : Obligations.FirstOutOfRangeAccessIsReported := by
  unfold Obligations.FirstOutOfRangeAccessIsReported
  intro i s
  obtain ⟨t, ht⟩ := exec_eq_checkAll_next i s
  rw [ht, firstOutOfRange_eq_find?]
  refine ⟨fun f => ?fault, fun r hrefused => ?refused⟩
  case fault => rw [State.checkAll_next_eq_fault, Prod.exists]
  case refused => exact nomatch (State.checkAll_eq_refused.1 hrefused).2

/-- Settles O7: fault entry sets `status` alone, and the machine it leaves faults again in the same way. -/
theorem faultEntryChangesOnlyStatus : Obligations.FaultEntryChangesOnlyStatus := by
  unfold Obligations.FaultEntryChangesOnlyStatus
  exact fun _ _ _ h => ⟨hostStep_of_fault h, hostStep_enterFault h⟩

/-- Settles O8, from the two disjuncts of `is_done()`. -/
theorem isDoneWhenStoppedOrPastTheEnd : Obligations.IsDoneWhenStoppedOrPastTheEnd := by
  unfold Obligations.IsDoneWhenStoppedOrPastTheEnd
  exact State.isDone_iff

/-- Settles O13: `load` passes its two checks exactly for a legal `MEMSIZE` and an image of that length, and
what it does not set is as at reset. -/
theorem loadBuildsTheResetState : Obligations.LoadBuildsTheResetState := by
  unfold Obligations.LoadBuildsTheResetState
  intro image cfg resetPc
  refine ⟨⟨fun ⟨s, hs⟩ => (load_eq_ok.1 hs).1, fun h => ⟨_, load_eq_ok.2 ⟨h, rfl⟩⟩⟩, fun s hs => ?_⟩
  obtain ⟨⟨hlegal, hlen⟩, rfl⟩ := load_eq_ok.1 hs
  obtain ⟨-, hstatus, -, -, hregs, hsp, hflags, hinte, hshift0, hshift1, hoffset⟩ := resetMeetsInvariant
  exact ⟨State.loaded_inv hlegal hlen resetPc, rfl, hstatus, rfl,
    fun i _ => State.loaded_mem_read image cfg resetPc i,
    hregs, hsp, hflags, hinte, hshift0, hshift1, hoffset⟩

end Sys2Proof.Machine
